-- ==== Sys2Proof/Word.lean ====
section
/-! DEFINITION. The word types: every register, address and operand of the core is one byte (R6), and the memory's
word operations move 16 bits (R31, R32). All register and address arithmetic is the wrapping arithmetic of these
types (R9). -/

namespace Sys2Proof

/-- A byte: 0..255, bit 0 least significant (R8). Addresses are bytes too (R6). -/
abbrev Byte := BitVec 8

/-- A 16-bit word of the memory's word operations (R8). -/
abbrev Word := BitVec 16

end Sys2Proof
end

