-- ==== Sys2Proof/Config.lean ====
section
/-! DEFINITION. What an implementation of the core fixes (the open parameters of R7) and the free value of the spec's
draws. The parameters are plain data that `State.params` carries, so a statement about every state is a statement
about every value of the parameters (log 2). -/

namespace Sys2Proof

/-- The 38 mnemonics of the instruction set, in the order of the source's table (R2, R55). The no-op class has no
mnemonic (R59, R105). -/
inductive Mnemonic where
  | lda | ldx | ldy | sta | stx | sty
  | txa | tya | tax | tay | tsx | txs
  | pha | php | pla | plp | dec | dex
  | dey | inc | inx | iny | cmp | cmx
  | cmy | beq | bne | jmp | jsr | rts
  | oua | hlt | apa | apx | apy | ada
  | adx | ady
deriving DecidableEq, Repr

/-- The mnemonics in the order of R55's table. -/
def Mnemonic.all : List Mnemonic :=
  [.lda, .ldx, .ldy, .sta, .stx, .sty, .txa, .tya, .tax, .tay,
   .tsx, .txs, .pha, .php, .pla, .plp, .dec, .dex, .dey, .inc,
   .inx, .iny, .cmp, .cmx, .cmy, .beq, .bne, .jmp, .jsr, .rts,
   .oua, .hlt, .apa, .apx, .apy, .ada, .adx, .ady]

/-- The place of a mnemonic in R55's table, from 0. -/
def Mnemonic.index : Mnemonic → Fin 38
  | .lda => 0 | .ldx => 1 | .ldy => 2 | .sta => 3
  | .stx => 4 | .sty => 5 | .txa => 6 | .tya => 7
  | .tax => 8 | .tay => 9 | .tsx => 10 | .txs => 11
  | .pha => 12 | .php => 13 | .pla => 14 | .plp => 15
  | .dec => 16 | .dex => 17 | .dey => 18 | .inc => 19
  | .inx => 20 | .iny => 21 | .cmp => 22 | .cmx => 23
  | .cmy => 24 | .beq => 25 | .bne => 26 | .jmp => 27
  | .jsr => 28 | .rts => 29 | .oua => 30 | .hlt => 31
  | .apa => 32 | .apx => 33 | .apy => 34 | .ada => 35
  | .adx => 36 | .ady => 37

/-- `OPCODE_MAP` (R54): the opcode byte of every mnemonic, in the order of `Mnemonic.index`. -/
structure OpcodeMap where
  codes : Vector Byte 38
deriving DecidableEq, Repr

/-- The opcode byte that selects a mnemonic. -/
def OpcodeMap.code (m : OpcodeMap) (mn : Mnemonic) : Byte := m.codes.get mn.index

/-- R54's constraint on `OPCODE_MAP`: it is injective and never maps a mnemonic to 0x00. -/
abbrev OpcodeMap.Legal (m : OpcodeMap) : Prop := m.codes.toList.Nodup ∧ 0x00#8 ∉ m.codes.toList

/-- `JSR_SAVED_PC` (R7, R93): the PC value JSR saves in the call frame. -/
inductive JsrSavedPc where
  /-- `NEXT_INSTR`: the address after the JSR, (p + 2) mod 256. -/
  | nextInstr
  /-- `OPERAND_ADDR`: the address of the JSR's operand, (p + 1) mod 256. -/
  | operandAddr
deriving DecidableEq, Repr

/-- `WORD_TOP_POLICY` (R7, R33): what a memory word access at address 255 does. -/
inductive WordTopPolicy where
  /-- `FAULT`: no byte is read or written and the fault record is set. -/
  | fault
  /-- `WRAP`: the second byte is address 0. -/
  | wrap
deriving DecidableEq, Repr

/-- The open parameters of R7 that are fixed for a machine. The fourth, `ORIGIN`, is an input of each core reset
(R120) and so an argument of `State.coreReset`. -/
structure Params where
  opcodeMap     : OpcodeMap
  jsrSavedPc    : JsrSavedPc
  wordTopPolicy : WordTopPolicy
deriving DecidableEq, Repr

/-- `draw8()` (R10): the free values A takes after JSR and RTS (R93, R94). It has no body: no claim can rest on a
value of it. The argument counts the draws of a run, `State.draws` (log 6). -/
opaque Config.freeByte : Nat → Byte

end Sys2Proof
end

