-- ==== Sys2Proof/Syntax.lean ====
section
/-! DEFINITION. The instructions: one constructor for each row of spec/opcode_table.json. A format OI instruction
carries its operand byte imm8 (R50, R51); a format O instruction carries nothing (R49). The register an instruction
uses is fixed by its opcode (R51). -/

namespace Sys2Proof

/-- The instruction set: the 38 named instructions and the no-op class (R2). -/
inductive Instr where
  /-- R61: load A with an immediate byte. -/
  | lda (imm8 : Byte)
  /-- R62: load X with an immediate byte. -/
  | ldx (imm8 : Byte)
  /-- R63: load Y with an immediate byte. -/
  | ldy (imm8 : Byte)
  /-- R64: store A at the address imm8. -/
  | sta (imm8 : Byte)
  /-- R65: store X at the address imm8. -/
  | stx (imm8 : Byte)
  /-- R66: store Y at the address imm8. -/
  | sty (imm8 : Byte)
  /-- R67: copy X to A. -/
  | txa
  /-- R68: copy Y to A. -/
  | tya
  /-- R69: copy A to X. -/
  | tax
  /-- R70: copy A to Y. -/
  | tay
  /-- R71: copy SP to X. -/
  | tsx
  /-- R72: copy X to SP. -/
  | txs
  /-- R75: push A. -/
  | pha
  /-- R76: push P. -/
  | php
  /-- R77: pop into A. -/
  | pla
  /-- R78: pop into P. -/
  | plp
  /-- R79: decrement A. -/
  | dec
  /-- R80: decrement X. -/
  | dex
  /-- R81: decrement Y. -/
  | dey
  /-- R82: increment A. -/
  | inc
  /-- R83: increment X. -/
  | inx
  /-- R84: increment Y. -/
  | iny
  /-- R85: compare A with imm8. -/
  | cmp (imm8 : Byte)
  /-- R86: compare X with imm8. -/
  | cmx (imm8 : Byte)
  /-- R87: compare Y with imm8. -/
  | cmy (imm8 : Byte)
  /-- R89: branch to imm8 if EQ is set, then clear EQ. -/
  | beq (imm8 : Byte)
  /-- R90: branch to imm8 if EQ is clear, then clear EQ. -/
  | bne (imm8 : Byte)
  /-- R91: jump to imm8. -/
  | jmp (imm8 : Byte)
  /-- R93: call the subroutine at imm8. -/
  | jsr (imm8 : Byte)
  /-- R94: return from a subroutine. -/
  | rts
  /-- R96: output A. -/
  | oua
  /-- R97: halt. -/
  | hlt
  /-- R98: add A to A. -/
  | apa
  /-- R99: add X to A. -/
  | apx
  /-- R100: add Y to A. -/
  | apy
  /-- R101: add imm8 to A. -/
  | ada (imm8 : Byte)
  /-- R102: add imm8 to X. -/
  | adx (imm8 : Byte)
  /-- R103: add imm8 to Y. -/
  | ady (imm8 : Byte)
  /-- R105: the no-op byte 0x00. -/
  | nopZero
  /-- R105: a no-op byte other than 0x00, one that `OPCODE_MAP` maps no mnemonic to; it keeps the byte. -/
  | nopUnassigned (opcode : Byte)
deriving DecidableEq, Repr

end Sys2Proof
end

