-- ==== Sys2Proof/WellFormed.lean ====
section
/-! DEFINITION. Which instructions have an encoding under an opcode map. Every operand byte is legal (R51), so the only
checks are on the byte of an unassigned no-op: it is not 0x00 (that row is `nopZero`) and no mnemonic has it (R105). -/

namespace Sys2Proof

/-- The check of an unassigned no-op's byte: not 0x00, and no mnemonic's opcode. -/
def OpcodeMap.unassigned (m : OpcodeMap) (op : Byte) : Bool :=
  decide (op ≠ 0x00#8) && Mnemonic.all.all (fun mn => decide (m.code mn ≠ op))

/-- The instruction has an encoding under the map. -/
def Instr.wellFormed (m : OpcodeMap) : Instr → Bool
  | .nopUnassigned op => m.unassigned op
  | .lda _ | .ldx _ | .ldy _ | .sta _ | .stx _ | .sty _ | .txa | .tya
  | .tax | .tay | .tsx | .txs | .pha | .php | .pla | .plp
  | .dec | .dex | .dey | .inc | .inx | .iny | .cmp _ | .cmx _
  | .cmy _ | .beq _ | .bne _ | .jmp _ | .jsr _ | .rts | .oua | .hlt
  | .apa | .apx | .apy | .ada _ | .adx _ | .ady _ | .nopZero => true

end Sys2Proof
end

