-- ==== Sys2Proof/Decode.lean ====
section
/-! DEFINITION. The opcode map's default, the decoder and the encoder (30_encoding.md). The opcode byte alone decides
the mnemonic and the length (R48, R53, R57); decoding is total over bytes, and only a list of bytes that ends too
early is rejected, by name. -/

namespace Sys2Proof

/-- The reference assignment of R55: the mnemonics in the order of the table, 0x01 to 0x26 (log 1). -/
def OpcodeMap.reference : OpcodeMap where
  codes := #v[
    0x01#8, 0x02#8, 0x03#8, 0x04#8, 0x05#8, 0x06#8, 0x07#8, 0x08#8,
    0x09#8, 0x0A#8, 0x0B#8, 0x0C#8, 0x0D#8, 0x0E#8, 0x0F#8, 0x10#8,
    0x11#8, 0x12#8, 0x13#8, 0x14#8, 0x15#8, 0x16#8, 0x17#8, 0x18#8,
    0x19#8, 0x1A#8, 0x1B#8, 0x1C#8, 0x1D#8, 0x1E#8, 0x1F#8, 0x20#8,
    0x21#8, 0x22#8, 0x23#8, 0x24#8, 0x25#8, 0x26#8]

/-- The two-byte instructions (format OI): exactly the 16 of R57. -/
def Mnemonic.hasOperand : Mnemonic → Bool
  | .lda | .ldx | .ldy | .sta | .stx | .sty | .cmp | .cmx | .cmy | .beq | .bne | .jmp | .jsr | .ada | .adx | .ady => true
  | .txa | .tya | .tax | .tay | .tsx | .txs | .pha | .php | .pla | .plp | .dec
  | .dex | .dey | .inc | .inx | .iny | .rts | .oua | .hlt | .apa | .apx | .apy => false

/-- The instruction of a mnemonic and, for format OI, its operand byte; a format O mnemonic ignores the byte. -/
def Mnemonic.instr (imm8 : Byte) : Mnemonic → Instr
  | .lda => .lda imm8
  | .ldx => .ldx imm8
  | .ldy => .ldy imm8
  | .sta => .sta imm8
  | .stx => .stx imm8
  | .sty => .sty imm8
  | .txa => .txa
  | .tya => .tya
  | .tax => .tax
  | .tay => .tay
  | .tsx => .tsx
  | .txs => .txs
  | .pha => .pha
  | .php => .php
  | .pla => .pla
  | .plp => .plp
  | .dec => .dec
  | .dex => .dex
  | .dey => .dey
  | .inc => .inc
  | .inx => .inx
  | .iny => .iny
  | .cmp => .cmp imm8
  | .cmx => .cmx imm8
  | .cmy => .cmy imm8
  | .beq => .beq imm8
  | .bne => .bne imm8
  | .jmp => .jmp imm8
  | .jsr => .jsr imm8
  | .rts => .rts
  | .oua => .oua
  | .hlt => .hlt
  | .apa => .apa
  | .apx => .apx
  | .apy => .apy
  | .ada => .ada imm8
  | .adx => .adx imm8
  | .ady => .ady imm8

/-- R53: the mnemonic that the map gives an opcode byte; none for 0x00 and for a byte no mnemonic maps to. -/
def OpcodeMap.lookup (m : OpcodeMap) (op : Byte) : Option Mnemonic :=
  if op = 0x00#8 then none else Mnemonic.all.find? (fun mn => decide (m.code mn = op))

/-- R105: the no-op of a byte that selects no mnemonic. -/
def noopOf (op : Byte) : Instr := if op = 0x00#8 then .nopZero else .nopUnassigned op

/-- R53: the instruction of an opcode byte, given the byte that follows it (used by format OI only). Total: every byte
decodes to exactly one instruction. -/
def decodePair (m : OpcodeMap) (op next : Byte) : Instr :=
  match m.lookup op with
  | some mn => mn.instr next
  | none => noopOf op

/-- R57: the length in bytes of the instruction an opcode byte begins. -/
def opcodeLength (m : OpcodeMap) (op : Byte) : Nat :=
  match m.lookup op with
  | some mn => if mn.hasOperand then 2 else 1
  | none => 1

/-- Why a list of bytes holds no whole instruction. -/
inductive DecodeError where
  /-- There is no opcode byte. -/
  | noOpcode
  /-- The opcode is of a two-byte instruction and the operand byte is missing. -/
  | missingOperand
deriving DecidableEq, Repr

/-- The first instruction of a list of bytes, with the rest of the list. -/
def decode (m : OpcodeMap) : List Byte → Except DecodeError (Instr × List Byte)
  | [] => .error .noOpcode
  | op :: rest =>
    match opcodeLength m op, rest with
    | 2, [] => .error .missingOperand
    | 2, imm8 :: rest => .ok (decodePair m op imm8, rest)
    | _, rest => .ok (decodePair m op 0x00#8, rest)

/-- The bytes of an instruction under a map (R49, R50). -/
def encode (m : OpcodeMap) : Instr → List Byte
  | .lda imm8 => [m.code .lda, imm8]
  | .ldx imm8 => [m.code .ldx, imm8]
  | .ldy imm8 => [m.code .ldy, imm8]
  | .sta imm8 => [m.code .sta, imm8]
  | .stx imm8 => [m.code .stx, imm8]
  | .sty imm8 => [m.code .sty, imm8]
  | .txa => [m.code .txa]
  | .tya => [m.code .tya]
  | .tax => [m.code .tax]
  | .tay => [m.code .tay]
  | .tsx => [m.code .tsx]
  | .txs => [m.code .txs]
  | .pha => [m.code .pha]
  | .php => [m.code .php]
  | .pla => [m.code .pla]
  | .plp => [m.code .plp]
  | .dec => [m.code .dec]
  | .dex => [m.code .dex]
  | .dey => [m.code .dey]
  | .inc => [m.code .inc]
  | .inx => [m.code .inx]
  | .iny => [m.code .iny]
  | .cmp imm8 => [m.code .cmp, imm8]
  | .cmx imm8 => [m.code .cmx, imm8]
  | .cmy imm8 => [m.code .cmy, imm8]
  | .beq imm8 => [m.code .beq, imm8]
  | .bne imm8 => [m.code .bne, imm8]
  | .jmp imm8 => [m.code .jmp, imm8]
  | .jsr imm8 => [m.code .jsr, imm8]
  | .rts => [m.code .rts]
  | .oua => [m.code .oua]
  | .hlt => [m.code .hlt]
  | .apa => [m.code .apa]
  | .apx => [m.code .apx]
  | .apy => [m.code .apy]
  | .ada imm8 => [m.code .ada, imm8]
  | .adx imm8 => [m.code .adx, imm8]
  | .ady imm8 => [m.code .ady, imm8]
  | .nopZero => [0x00#8]
  | .nopUnassigned op => [op]

/-- The length in bytes of an instruction (R48, R57). -/
def Instr.length : Instr → Nat
  | .lda _ | .ldx _ | .ldy _ | .sta _ | .stx _ | .sty _ | .cmp _ | .cmx _
  | .cmy _ | .beq _ | .bne _ | .jmp _ | .jsr _ | .ada _ | .adx _ | .ady _ => 2
  | .txa | .tya | .tax | .tay | .tsx | .txs | .pha | .php | .pla | .plp | .dec
  | .dex | .dey | .inc | .inx | .iny | .rts | .oua | .hlt | .apa | .apx | .apy
  | .nopZero | .nopUnassigned _ => 1

/-- The bytes of a numbered word as spec/opcode_table.json numbers its bits: bit 0 is the least significant bit of the
first byte. Bits above `nbits` are 0, up to the longest instruction (two bytes). -/
def wordBytes (nbits w : Nat) : List Byte :=
  [BitVec.ofNat 8 (w % 2 ^ nbits), BitVec.ofNat 8 (w % 2 ^ nbits / 256)]

/-- The instruction the decoder reads, under the reference assignment, from the bits `w`. -/
def decodeTableWord (nbits w : Nat) : Option Instr :=
  match decode OpcodeMap.reference (wordBytes nbits w) with
  | .ok (i, _) => some i
  | .error _ => none

end Sys2Proof
end

