-- ==== Sys2Proof/Machine/Defaults.lean ====
section
/-! DEFINITION. The spec's defaults of the open parameters of R7, and the origin that `State.reset` uses. They stand here
so that a machine with other parameters is a change of these bodies alone. -/

namespace Sys2Proof.Machine

/-- The defaults of R7: the reference assignment (R55, D1; log 1), `NEXT_INSTR` (D5; log 4) and `FAULT` (D6; log 5). -/
def Defaults.params : Params where
  opcodeMap := OpcodeMap.reference
  jsrSavedPc := .nextInstr
  wordTopPolicy := .fault

/-- The origin of `State.reset`. DESIGN CHOICE, unsafe (log 3): R7 gives `ORIGIN` no default; 0x10 is the origin of the
spec's own vectors and programs. No statement rests on it. -/
def Defaults.origin : Byte := 0x10#8

end Sys2Proof.Machine
end

