-- ==== Sys2Proof/Machine/State.lean ====
section
/-! DEFINITION. The state of the block (R12), what can stop it, and the state after a core reset (R27). -/

namespace Sys2Proof.Machine

/-- The memory `M[0..255]` (R28) as the list of the bytes that differ from what an unlisted address reads as, by
strictly rising address (`Memory.wf`, log 12). -/
abbrev Memory := List Host.Cell

/-- Why a fault record was set (R26, R107). -/
inductive FaultReason where
  /-- `WordAccessAtTop`: a memory word access at address 255 under `WORD_TOP_POLICY = FAULT` (R33). -/
  | wordAccessAtTop
deriving DecidableEq, Repr

/-- The fault record `(reason, address)` (R26, R107). -/
structure FaultRecord where
  reason : FaultReason
  addr   : Byte
deriving DecidableEq, Repr

/-- The state of the block: R12's nine pieces, then the model's own two fields. -/
structure State where
  /-- The accumulator A (R13). -/
  a : Byte
  /-- The index register X (R14). -/
  x : Byte
  /-- The index register Y (R15). -/
  y : Byte
  /-- The processor status P (R17): bit 1 is EQ, the other bits are inert storage (R19). -/
  p : Byte
  /-- The stack pointer SP: the first free slot above the top of the stack (R20). -/
  sp : Byte
  /-- The program counter PC (R21). -/
  pc : Byte
  /-- The memory M (R23). -/
  mem : Memory
  /-- The output trace O, oldest byte first (R24). -/
  out : List Byte
  /-- The fault record (R26). -/
  faultRecord : Option FaultRecord
  /-- The model's own: the open parameters of R7, which nothing changes (log 2). -/
  params : Params
  /-- The model's own: how many free values the run has drawn (log 6). -/
  draws : Nat
deriving DecidableEq, Repr

/-- What stops the block. -/
inductive Fault where
  /-- The fault record is present: the block takes no further step and no further host operation (R107, R119).
  Raised by `step` and by `hostOp`, never by an instruction (R106). Safe: the spec says the block stops (log 9). -/
  | blockFaulted (r : FaultRecord)
deriving DecidableEq, Repr

/-- What has no meaning. -/
inductive Refusal where
  /-- An instruction that has no meaning yet, raised by `exec`'s arm for it alone. Safe: nothing is claimed. No arm of
  this model raises it. -/
  | notModelled (mnemonic : String)
  /-- A host operation while the run loop is in progress, which the spec does not allow (R128, D14); raised by
  `Session.host`, never by `step` or `exec`. Safe: the spec gives the operation no effect then (log 10). -/
  | hostDuringRun
deriving DecidableEq, Repr

/-- A block just created: memory all 0, the core reset with an origin, no fault record (R27, R35). -/
def State.create (params : Params) (origin : Byte) : State where
  a := 0x00#8
  x := 0x00#8
  y := 0x00#8
  p := 0x00#8
  sp := 0x00#8
  pc := origin
  mem := []
  out := []
  faultRecord := none
  params := params
  draws := 0

/-- The machine right after reset, with the spec's default parameters and the origin of log 3. -/
def State.reset : State := State.create Defaults.params Defaults.origin

end Sys2Proof.Machine
end

