-- ==== Sys2Proof/Machine/Ops.lean ====
section
/-! DEFINITION. The named operations over memory and registers: the memory's five operations (R29 to R34), the fetch
(R52), the stack (R73, R74), the output (R24), the draw (R10) and the resets (R120, R121). There is no exception entry
and no exception return on this core (R106, R110, R111). -/

namespace Sys2Proof.Machine

/-! ## The memory block -/

/-- What an unlisted address reads as: 0, since the memory is created and reset to zeros (R23, R35). -/
def Memory.unlisted : Byte := 0x00#8

/-- `MemRead(a, 1)` (R29). Every address is valid. -/
def Memory.read : Memory → Byte → Byte
  | [], _ => Memory.unlisted
  | c :: cs, addr => if c.1 = addr.toNat then c.2 else Memory.read cs addr

/-- The memory with no entry for an address. -/
def Memory.without (m : Memory) (addr : Nat) : Memory := m.filter (fun c => decide (c.1 ≠ addr))

/-- The entry at its place by rising address. -/
def Memory.place (c : Host.Cell) : Memory → Memory
  | [] => [c]
  | d :: ds => if c.1 < d.1 then c :: d :: ds else d :: Memory.place c ds

/-- `MemWrite(a, 1, v)` (R30), keeping the canonical form. -/
def Memory.write (m : Memory) (addr v : Byte) : Memory :=
  if v = Memory.unlisted then Memory.without m addr.toNat
  else Memory.place (addr.toNat, v) (Memory.without m addr.toNat)

/-- The canonical form: addresses strictly rising and in 0..255, no entry equal to what an unlisted address reads as. -/
abbrev Memory.wf (m : Memory) : Prop :=
  List.Pairwise (fun c d : Host.Cell => c.1 < d.1) m ∧ ∀ c ∈ m, c.1 < 256 ∧ c.2 ≠ Memory.unlisted

/-- The high byte of a word, `w[15:8]` (R8). -/
def wordHigh (w : Word) : Byte := w.extractLsb' 8 8

/-- The low byte of a word, `w[7:0]` (R8). -/
def wordLow (w : Word) : Byte := w.extractLsb' 0 8

/-- `hi * 256 + lo` (R8). -/
def wordOf (hi lo : Byte) : Word := hi ++ lo

/-! ## The memory from the block's side -/

/-- `M[a]` (R29). -/
def State.readByte (s : State) (addr : Byte) : Byte := s.mem.read addr

/-- `MemWrite(a, 1, v)` (R30). -/
def State.writeByte (s : State) (addr v : Byte) : State := { s with mem := s.mem.write addr v }

/-- The fault record is set; once set it is never cleared (R26). -/
def State.recordFault (s : State) (r : FaultRecord) : State :=
  { s with faultRecord := some (s.faultRecord.getD r) }

/-- The record of a word access at address 255 (R33, R107). -/
def topRecord : FaultRecord := { reason := .wordAccessAtTop, addr := 0xFF#8 }

/-- Whether a word access at the address is one that faults: address 255 under `FAULT` (R33). -/
def State.wordFaults (s : State) (addr : Byte) : Bool :=
  decide (addr = 0xFF#8) && decide (s.params.wordTopPolicy = .fault)

/-- `MemReadWord(a)` (R31), big-endian. At address 255 the policy decides (R33): `FAULT` reads no byte, returns no value
and sets the fault record; `WRAP` takes the second byte from address 0. -/
def State.readWord (s : State) (addr : Byte) : Option Word × State :=
  if s.wordFaults addr then (none, s.recordFault topRecord)
  else (some (wordOf (s.readByte addr) (s.readByte (addr + 1))), s)

/-- `MemWriteWord(a, w)` (R32), big-endian; address 255 as in `State.readWord` (R33). -/
def State.writeWord (s : State) (addr : Byte) (w : Word) : State :=
  if s.wordFaults addr then s.recordFault topRecord
  else (s.writeByte addr (wordHigh w)).writeByte (addr + 1) (wordLow w)

/-- `reset()` of the memory (R34, R121): every byte 0, no register changed. -/
def State.memReset (s : State) : State := { s with mem := [] }

/-- The core reset (R120): the registers 0, PC the origin, the output trace empty. Memory, the fault record, the
parameters and the draws are untouched. -/
def State.coreReset (s : State) (origin : Byte) : State :=
  { s with a := 0x00#8, x := 0x00#8, y := 0x00#8, p := 0x00#8, sp := 0x00#8, pc := origin, out := [] }

/-- `Load(origin, b)` (R122): the image byte by byte, the address wrapping from 255 to 0 (R133). -/
def State.load (s : State) (origin : Byte) : List Byte → State
  | [] => s
  | b :: bs => State.load (s.writeByte origin b) (origin + 1) bs

/-! ## The program counter -/

/-- The halt sentinel (R22). -/
def haltSentinel : Byte := 0xFF#8

/-- The core is halted: PC is the sentinel at an instruction boundary (R22, R25; the test is made between instructions
only, R125, log 8). -/
def State.halted (s : State) : Bool := decide (s.pc = haltSentinel)

/-- PC after `n` fetched bytes: R52's increment, `n` times, modulo 256 (R21). -/
def State.advance (s : State) (n : Byte) : State := { s with pc := s.pc + n }

/-- `PC <- target` (R10). -/
def State.jump (s : State) (target : Byte) : State := { s with pc := target }

/-- `Fetch()` (R52): the byte at PC, and PC advanced. -/
def State.fetch (s : State) : Byte × State := (s.readByte s.pc, s.advance 1)

/-- The PC value JSR saves (R93), from the state in which PC is the address of the JSR's opcode; `JSR_SAVED_PC`
decides (log 4). -/
def State.returnAddress (s : State) : Byte :=
  match s.params.jsrSavedPc with
  | .nextInstr => s.pc + 2
  | .operandAddr => s.pc + 1

/-! ## The stack -/

/-- `Push(v)` (R73): write at SP, then increment SP. -/
def State.push (s : State) (v : Byte) : State :=
  { s.writeByte s.sp v with sp := s.sp + 1 }

/-- `Pop()` (R74): decrement SP, then read at the new SP; the byte is not erased. -/
def State.pop (s : State) : Byte × State :=
  (s.readByte (s.sp - 1), { s with sp := s.sp - 1 })

/-! ## Output and draws -/

/-- `Emit(v)` (R24): append to the output trace. -/
def State.emit (s : State) (v : Byte) : State := { s with out := s.out ++ [v] }

/-- `A <- draw8()` (R10, R93, R94): A takes a fresh free value (log 6). -/
def State.drawA (s : State) : State := { s with a := Config.freeByte s.draws, draws := s.draws + 1 }

end Sys2Proof.Machine
end

