-- ==== Sys2Proof/Machine/Operands.lean ====
section
/-! DEFINITION. The operand forms (R51) and the ALU (R104). A register operand is fixed by the opcode; the operand byte
imm8 is a value, a memory address or a PC target, with no extension, scaling or offset. -/

namespace Sys2Proof.Machine

/-- The 8-bit registers an instruction may name through its opcode (R13 to R20). -/
inductive Reg where
  | a | x | y | p | sp
deriving DecidableEq, Repr

/-- Read of a register. No register is hard-wired (R16). -/
def State.reg (s : State) : Reg → Byte
  | .a => s.a
  | .x => s.x
  | .y => s.y
  | .p => s.p
  | .sp => s.sp

/-- `R <- v` (R10). -/
def State.setReg (s : State) (r : Reg) (v : Byte) : State :=
  match r with
  | .a => { s with a := v }
  | .x => { s with x := v }
  | .y => { s with y := v }
  | .p => { s with p := v }
  | .sp => { s with sp := v }

/-- imm8 in the role of a value (R51). -/
def operandValue (imm8 : Byte) : Byte := imm8

/-- imm8 in the role of the address written (R51). -/
def operandAddress (imm8 : Byte) : Byte := imm8

/-- imm8 in the role of the new PC, absolute (R51). -/
def operandTarget (imm8 : Byte) : Byte := imm8

/-- The ALU's sum, modulo 256 (R9, R104). -/
def aluAdd (u v : Byte) : Byte := u + v

/-- The ALU's increment, modulo 256 (R104). -/
def aluInc (v : Byte) : Byte := v + 1

/-- The ALU's decrement, modulo 256 (R104). -/
def aluDec (v : Byte) : Byte := v - 1

/-- The ALU's equality test (R104). -/
def aluEq (u v : Byte) : Bool := decide (u = v)

end Sys2Proof.Machine
end

