-- ==== Sys2Proof/Machine/Add.lean ====
section
/-! DEFINITION. Adds (47_add.md). Each meaning starts in the state whose PC is the address p of the opcode and
ends with PC past the instruction's bytes (R21, R52). -/

namespace Sys2Proof.Machine

/-- R98: `APA`: A <- (A + A) mod 256. No flag changes. -/
def execApa (s : State) : Host.Outcome State Fault Refusal :=
  .next ((s.setReg .a (aluAdd (s.reg .a) (s.reg .a))).advance 1)

/-- R99: `APX`: A <- (A + X) mod 256. No flag changes. -/
def execApx (s : State) : Host.Outcome State Fault Refusal :=
  .next ((s.setReg .a (aluAdd (s.reg .a) (s.reg .x))).advance 1)

/-- R100: `APY`: A <- (A + Y) mod 256. No flag changes. -/
def execApy (s : State) : Host.Outcome State Fault Refusal :=
  .next ((s.setReg .a (aluAdd (s.reg .a) (s.reg .y))).advance 1)

/-- R101: `ADA imm8`: A <- (A + imm8) mod 256. No flag changes. -/
def execAda (imm8 : Byte) (s : State) : Host.Outcome State Fault Refusal :=
  .next ((s.setReg .a (aluAdd (s.reg .a) (operandValue imm8))).advance 2)

/-- R102: `ADX imm8`: X <- (X + imm8) mod 256. No flag changes. -/
def execAdx (imm8 : Byte) (s : State) : Host.Outcome State Fault Refusal :=
  .next ((s.setReg .x (aluAdd (s.reg .x) (operandValue imm8))).advance 2)

/-- R103: `ADY imm8`: Y <- (Y + imm8) mod 256. No flag changes. -/
def execAdy (imm8 : Byte) (s : State) : Host.Outcome State Fault Refusal :=
  .next ((s.setReg .y (aluAdd (s.reg .y) (operandValue imm8))).advance 2)

end Sys2Proof.Machine
end

