-- ==== Sys2Proof/Machine/Flags.lean ====
section
/-! DEFINITION. The one flag: EQ, bit 1 of P (R17, R18). The other seven bits of P are preserved by every operation
here (R19). -/

namespace Sys2Proof.Machine

/-- EQ, `P[1]` (R17). -/
def eqFlag (p : Byte) : Bool := p.getLsbD 1

/-- `P[1] <- 1`: bits 0 and 2..7 keep their values (R10). -/
def setEq (p : Byte) : Byte := p ||| 0x02#8

/-- `P[1] <- 0`: bits 0 and 2..7 keep their values (R10). -/
def clearEq (p : Byte) : Byte := p &&& 0xFD#8

/-- The compare rule (R85 to R87): EQ is set on equality and left unchanged otherwise, never cleared. -/
def compareFlags (p u v : Byte) : Byte := if aluEq u v then setEq p else p

/-- A compare of a register with a value writes P alone. -/
def State.compare (s : State) (r : Reg) (v : Byte) : State :=
  { s with p := compareFlags s.p (s.reg r) v }

/-- The end of a conditional branch (R89, R90): PC takes the target if the decision says so, and EQ is cleared whether or
not the branch is taken. The decision was made on EQ as it stood before. -/
def State.branch (s : State) (taken : Bool) (target : Byte) : State :=
  { s with pc := if taken then target else s.pc, p := clearEq s.p }

end Sys2Proof.Machine
end

