-- ==== Sys2Proof/Machine/Compare.lean ====
section
/-! DEFINITION. Compares (44_compare.md). Each meaning starts in the state whose PC is the address p of the opcode and
ends with PC past the instruction's bytes (R21, R52). -/

namespace Sys2Proof.Machine

/-- R85: `CMP imm8`: if A = imm8 then P[1] <- 1; EQ is never cleared here. -/
def execCmp (imm8 : Byte) (s : State) : Host.Outcome State Fault Refusal :=
  .next ((s.compare .a (operandValue imm8)).advance 2)

/-- R86: `CMX imm8`: if X = imm8 then P[1] <- 1; EQ is never cleared here. -/
def execCmx (imm8 : Byte) (s : State) : Host.Outcome State Fault Refusal :=
  .next ((s.compare .x (operandValue imm8)).advance 2)

/-- R87: `CMY imm8`: if Y = imm8 then P[1] <- 1; EQ is never cleared here. -/
def execCmy (imm8 : Byte) (s : State) : Host.Outcome State Fault Refusal :=
  .next ((s.compare .y (operandValue imm8)).advance 2)

end Sys2Proof.Machine
end

