-- ==== Sys2Proof/Machine/Control.lean ====
section
/-! DEFINITION. Control transfer (45_control_flow.md). Each meaning starts in the state whose PC is the address p of the opcode and
overwrites PC after the fetches, if at all (R21). -/

namespace Sys2Proof.Machine

/-- R89: `BEQ imm8`: branch if EQ is set; EQ is cleared either way. -/
def execBeq (imm8 : Byte) (s : State) : Host.Outcome State Fault Refusal :=
  .next ((s.advance 2).branch (eqFlag s.p) (operandTarget imm8))

/-- R90: `BNE imm8`: branch if EQ is clear; EQ is cleared either way. -/
def execBne (imm8 : Byte) (s : State) : Host.Outcome State Fault Refusal :=
  .next ((s.advance 2).branch (!eqFlag s.p) (operandTarget imm8))

/-- R91: `JMP imm8`: PC <- imm8. No flag changes. -/
def execJmp (imm8 : Byte) (s : State) : Host.Outcome State Fault Refusal :=
  .next ((s.advance 2).jump (operandTarget imm8))

/-- The call frame (R92, R93): P, A, the return address, X and Y, in that order, each by the push primitive. -/
def State.pushFrame (s : State) (ret : Byte) : State :=
  ((((s.push s.p).push s.a).push ret).push s.x).push s.y

/-- R93: `JSR imm8`: push the call frame, draw A, PC <- imm8. P is pushed, not modified. -/
def execJsr (imm8 : Byte) (s : State) : Host.Outcome State Fault Refusal :=
  .next (((s.advance 2).pushFrame s.returnAddress).drawA.jump (operandTarget imm8))

/-- The five pops of RTS (R94, C1): Y, X, PC, the A slot (SP moves over it and A is not loaded from it), P. -/
def State.popFrame (s : State) : State :=
  let y := s.pop
  let x := y.2.pop
  let pc := x.2.pop
  let slotA := pc.2.pop
  let p := slotA.2.pop
  { p.2 with y := y.1, x := x.1, pc := pc.1, p := p.1 }

/-- R94: `RTS`: pop the call frame, draw A. P is restored as a whole byte. -/
def execRts (s : State) : Host.Outcome State Fault Refusal :=
  .next (s.advance 1).popFrame.drawA

end Sys2Proof.Machine
end

