-- ==== Sys2Proof/Machine/IncDec.lean ====
section
/-! DEFINITION. Increment and decrement (43_incdec.md). Each meaning starts in the state whose PC is the address p of the opcode and
ends with PC past the instruction's bytes (R21, R52). -/

namespace Sys2Proof.Machine

/-- R79: `DEC`: A <- (A - 1) mod 256. No flag changes. -/
def execDec (s : State) : Host.Outcome State Fault Refusal :=
  .next ((s.setReg .a (aluDec (s.reg .a))).advance 1)

/-- R80: `DEX`: X <- (X - 1) mod 256. No flag changes. -/
def execDex (s : State) : Host.Outcome State Fault Refusal :=
  .next ((s.setReg .x (aluDec (s.reg .x))).advance 1)

/-- R81: `DEY`: Y <- (Y - 1) mod 256. No flag changes. -/
def execDey (s : State) : Host.Outcome State Fault Refusal :=
  .next ((s.setReg .y (aluDec (s.reg .y))).advance 1)

/-- R82: `INC`: A <- (A + 1) mod 256. No flag changes. -/
def execInc (s : State) : Host.Outcome State Fault Refusal :=
  .next ((s.setReg .a (aluInc (s.reg .a))).advance 1)

/-- R83: `INX`: X <- (X + 1) mod 256. No flag changes. -/
def execInx (s : State) : Host.Outcome State Fault Refusal :=
  .next ((s.setReg .x (aluInc (s.reg .x))).advance 1)

/-- R84: `INY`: Y <- (Y + 1) mod 256. No flag changes. -/
def execIny (s : State) : Host.Outcome State Fault Refusal :=
  .next ((s.setReg .y (aluInc (s.reg .y))).advance 1)

end Sys2Proof.Machine
end

