-- ==== Sys2Proof/Machine/LoadStore.lean ====
section
/-! DEFINITION. Loads and stores (40_load_store.md). Each meaning starts in the state whose PC is the address p of the opcode and
ends with PC past the instruction's bytes (R21, R52). -/

namespace Sys2Proof.Machine

/-- R61: `LDA imm8`: A <- imm8. No flag changes. -/
def execLda (imm8 : Byte) (s : State) : Host.Outcome State Fault Refusal :=
  .next ((s.setReg .a (operandValue imm8)).advance 2)

/-- R62: `LDX imm8`: X <- imm8. No flag changes. -/
def execLdx (imm8 : Byte) (s : State) : Host.Outcome State Fault Refusal :=
  .next ((s.setReg .x (operandValue imm8)).advance 2)

/-- R63: `LDY imm8`: Y <- imm8. No flag changes. -/
def execLdy (imm8 : Byte) (s : State) : Host.Outcome State Fault Refusal :=
  .next ((s.setReg .y (operandValue imm8)).advance 2)

/-- R64: `STA imm8`: M[imm8] <- A. No flag changes; every address is writable. -/
def execSta (imm8 : Byte) (s : State) : Host.Outcome State Fault Refusal :=
  .next ((s.writeByte (operandAddress imm8) (s.reg .a)).advance 2)

/-- R65: `STX imm8`: M[imm8] <- X. No flag changes; every address is writable. -/
def execStx (imm8 : Byte) (s : State) : Host.Outcome State Fault Refusal :=
  .next ((s.writeByte (operandAddress imm8) (s.reg .x)).advance 2)

/-- R66: `STY imm8`: M[imm8] <- Y. No flag changes; every address is writable. -/
def execSty (imm8 : Byte) (s : State) : Host.Outcome State Fault Refusal :=
  .next ((s.writeByte (operandAddress imm8) (s.reg .y)).advance 2)

end Sys2Proof.Machine
end

