-- ==== Sys2Proof/Machine/Noop.lean ====
section
/-! DEFINITION. No-ops (48_noop.md). The state has PC at the opcode (R21). -/

namespace Sys2Proof.Machine

/-- R105: the byte 0x00: nothing beyond the opcode fetch. -/
def execNopZero (s : State) : Host.Outcome State Fault Refusal :=
  .next (s.advance 1)

/-- R105: a byte no mnemonic maps to: nothing beyond the opcode fetch, whatever the byte is. -/
def execNopUnassigned (_opcode : Byte) (s : State) : Host.Outcome State Fault Refusal :=
  .next (s.advance 1)

end Sys2Proof.Machine
end

