-- ==== Sys2Proof/Machine/OutputHalt.lean ====
section
/-! DEFINITION. Output and halt (46_output_halt.md). The state has PC at the opcode (R21). -/

namespace Sys2Proof.Machine

/-- R96: `OUA`: Emit(A). A is unchanged; the host always accepts at once (D12). -/
def execOua (s : State) : Host.Outcome State Fault Refusal :=
  .next ((s.emit (s.reg .a)).advance 1)

/-- R97: `HLT`: PC <- 255, the halt sentinel; nothing else changes. -/
def execHlt (s : State) : Host.Outcome State Fault Refusal :=
  .next ((s.advance 1).jump haltSentinel)

end Sys2Proof.Machine
end

