-- ==== Sys2Proof/Machine/Stack.lean ====
section
/-! DEFINITION. Push and pop (42_stack.md). Each meaning starts in the state whose PC is the address p of the opcode and
ends with PC past the instruction's bytes (R21, R52). -/

namespace Sys2Proof.Machine

/-- R75: `PHA`: Push(A). -/
def execPha (s : State) : Host.Outcome State Fault Refusal :=
  .next ((s.push (s.reg .a)).advance 1)

/-- R76: `PHP`: Push(P). -/
def execPhp (s : State) : Host.Outcome State Fault Refusal :=
  .next ((s.push (s.reg .p)).advance 1)

/-- R77: `PLA`: A <- Pop(). No flag changes. -/
def execPla (s : State) : Host.Outcome State Fault Refusal :=
  .next ((s.pop.2.setReg .a s.pop.1).advance 1)

/-- R78: `PLP`: P <- Pop(). All eight bits of P are replaced. -/
def execPlp (s : State) : Host.Outcome State Fault Refusal :=
  .next ((s.pop.2.setReg .p s.pop.1).advance 1)

end Sys2Proof.Machine
end

