-- ==== Sys2Proof/Machine/Transfer.lean ====
section
/-! DEFINITION. Register transfers (41_transfer.md). Each meaning starts in the state whose PC is the address p of the opcode and
ends with PC past the instruction's bytes (R21, R52). -/

namespace Sys2Proof.Machine

/-- R67: `TXA`: A <- X. No flag changes. -/
def execTxa (s : State) : Host.Outcome State Fault Refusal :=
  .next ((s.setReg .a (s.reg .x)).advance 1)

/-- R68: `TYA`: A <- Y. No flag changes. -/
def execTya (s : State) : Host.Outcome State Fault Refusal :=
  .next ((s.setReg .a (s.reg .y)).advance 1)

/-- R69: `TAX`: X <- A. No flag changes. -/
def execTax (s : State) : Host.Outcome State Fault Refusal :=
  .next ((s.setReg .x (s.reg .a)).advance 1)

/-- R70: `TAY`: Y <- A. No flag changes. -/
def execTay (s : State) : Host.Outcome State Fault Refusal :=
  .next ((s.setReg .y (s.reg .a)).advance 1)

/-- R71: `TSX`: X <- SP. No flag changes. -/
def execTsx (s : State) : Host.Outcome State Fault Refusal :=
  .next ((s.setReg .x (s.reg .sp)).advance 1)

/-- R72: `TXS`: SP <- X. No flag changes. -/
def execTxs (s : State) : Host.Outcome State Fault Refusal :=
  .next ((s.setReg .sp (s.reg .x)).advance 1)

end Sys2Proof.Machine
end

