-- ==== Sys2Proof/Machine/Dispatch.lean ====
section
/-! DEFINITION. The dispatch: one arm per constructor of Instr. -/

namespace Sys2Proof.Machine

def exec (i : Instr) (s : State) : Host.Outcome State Fault Refusal :=
  match i with
  | .lda imm8 => Sys2Proof.Machine.execLda imm8 s
  | .ldx imm8 => Sys2Proof.Machine.execLdx imm8 s
  | .ldy imm8 => Sys2Proof.Machine.execLdy imm8 s
  | .sta imm8 => Sys2Proof.Machine.execSta imm8 s
  | .stx imm8 => Sys2Proof.Machine.execStx imm8 s
  | .sty imm8 => Sys2Proof.Machine.execSty imm8 s
  | .txa => Sys2Proof.Machine.execTxa s
  | .tya => Sys2Proof.Machine.execTya s
  | .tax => Sys2Proof.Machine.execTax s
  | .tay => Sys2Proof.Machine.execTay s
  | .tsx => Sys2Proof.Machine.execTsx s
  | .txs => Sys2Proof.Machine.execTxs s
  | .pha => Sys2Proof.Machine.execPha s
  | .php => Sys2Proof.Machine.execPhp s
  | .pla => Sys2Proof.Machine.execPla s
  | .plp => Sys2Proof.Machine.execPlp s
  | .dec => Sys2Proof.Machine.execDec s
  | .dex => Sys2Proof.Machine.execDex s
  | .dey => Sys2Proof.Machine.execDey s
  | .inc => Sys2Proof.Machine.execInc s
  | .inx => Sys2Proof.Machine.execInx s
  | .iny => Sys2Proof.Machine.execIny s
  | .cmp imm8 => Sys2Proof.Machine.execCmp imm8 s
  | .cmx imm8 => Sys2Proof.Machine.execCmx imm8 s
  | .cmy imm8 => Sys2Proof.Machine.execCmy imm8 s
  | .beq imm8 => Sys2Proof.Machine.execBeq imm8 s
  | .bne imm8 => Sys2Proof.Machine.execBne imm8 s
  | .jmp imm8 => Sys2Proof.Machine.execJmp imm8 s
  | .jsr imm8 => Sys2Proof.Machine.execJsr imm8 s
  | .rts => Sys2Proof.Machine.execRts s
  | .oua => Sys2Proof.Machine.execOua s
  | .hlt => Sys2Proof.Machine.execHlt s
  | .apa => Sys2Proof.Machine.execApa s
  | .apx => Sys2Proof.Machine.execApx s
  | .apy => Sys2Proof.Machine.execApy s
  | .ada imm8 => Sys2Proof.Machine.execAda imm8 s
  | .adx imm8 => Sys2Proof.Machine.execAdx imm8 s
  | .ady imm8 => Sys2Proof.Machine.execAdy imm8 s
  | .nopZero => Sys2Proof.Machine.execNopZero s
  | .nopUnassigned opcode => Sys2Proof.Machine.execNopUnassigned opcode s

end Sys2Proof.Machine
end

