-- ==== Sys2Proof/Machine/Fetch.lean ====
section
/-! DEFINITION. Fetching and decoding the next instruction (R52, R53, R60), and placing one where the next fetch finds
it. -/

namespace Sys2Proof.Machine

/-- The instruction at PC (R60): the opcode byte fetched, then the byte after it, which only a format OI instruction
takes; a byte read has no side effect (R29, R39), so reading it for the others changes nothing (log 14). -/
def State.fetchInstr (s : State) : Instr :=
  decodePair s.params.opcodeMap s.fetch.1 s.fetch.2.fetch.1

/-- The bits `w` as an instruction loaded at PC, as the host's Load would (R122, log 11). -/
def State.placeInstr (s : State) (nbits w : Nat) : State := s.load s.pc (wordBytes nbits w)

end Sys2Proof.Machine
end

