-- ==== Sys2Proof/Machine/Step.lean ====
section
/-! DEFINITION. One step of the block (R60, R119, R124). -/

namespace Sys2Proof.Machine

/-- One step: none with a fault record (R107, log 9); nothing changes in the halted core (R126, log 7); otherwise the
instruction at PC, whole (R60). -/
def step (s : State) : Host.Outcome State Fault Refusal :=
  match s.faultRecord with
  | some r => .fault (.blockFaulted r)
  | none => if s.halted then .next s else exec s.fetchInstr s

/-- The state with the instruction of the bits `w` where `step` fetches next (log 11). -/
def State.withFetchWord (s : State) (nbits w : Nat) : State := s.placeInstr nbits w

end Sys2Proof.Machine
end

