-- ==== Sys2Proof/Machine/Launch.lean ====
section
/-! DEFINITION. The run loop (R124) and what a run yields (R129). -/

namespace Sys2Proof.Machine

/-- What the run loop comes to within some number of steps. -/
inductive RunResult where
  /-- The run ended: PC = 255 at a step boundary with no fault record; the state holds the trace, the registers and the
  memory (R129). -/
  | ended (s : State)
  /-- The fuel ran out, which says nothing about the core: a run may be infinite (R127, D18). -/
  | unfinished (s : State)
  /-- The fault record is present, so the run has not ended successfully (R129). -/
  | stopped (r : FaultRecord)
  /-- An instruction was refused; no instruction of this core is (R119). -/
  | refused (r : Refusal)
deriving DecidableEq, Repr

/-- `Launch()` (R124): steps while PC ≠ 255 and there is no fault record, at most `fuel` of them. -/
def launch (fuel : Nat) (s : State) : RunResult :=
  match s.faultRecord with
  | some r => .stopped r
  | none =>
    if s.halted then .ended s
    else
      match fuel with
      | 0 => .unfinished s
      | n + 1 =>
        match step s with
        | .next t => launch n t
        | .fault (.blockFaulted r) => .stopped r
        | .refused r => .refused r

end Sys2Proof.Machine
end

