-- ==== Sys2Proof/Machine/HostOps.lean ====
section
/-! DEFINITION. The host's side of the interface (70_reset_and_hazards.md): its operations, the boot sequence, and when
the host may act (R47, R107, R120, R121, R128, D13, D14). -/

namespace Sys2Proof.Machine

/-- The host's operations (D13). -/
inductive HostOp where
  /-- Core reset with an origin (R120). -/
  | coreReset (origin : Byte)
  /-- Memory reset (R34, R121). -/
  | memReset
  /-- Load of an image at an origin (R122). -/
  | load (origin : Byte) (image : List Byte)
  /-- The memory's byte read (R29). -/
  | readByte (addr : Byte)
  /-- The memory's byte write (R30). -/
  | writeByte (addr v : Byte)
  /-- The memory's word read (R31, R33). -/
  | readWord (addr : Byte)
  /-- The memory's word write (R32, R33). -/
  | writeWord (addr : Byte) (w : Word)
  /-- Reading the state after a run (R129). -/
  | readState
deriving DecidableEq, Repr

/-- What a host operation returns. -/
inductive HostReply where
  /-- Nothing: a reset, a load, a byte write or a word write, one that faults among them (R33). -/
  | done
  /-- The byte read (R29). -/
  | byte (v : Byte)
  /-- The word read (R31). -/
  | word (w : Word)
  /-- A faulted word read returns no value (R33). -/
  | noValue
  /-- The state read after a run: trace, registers and memory (R129). -/
  | state (s : State)
deriving DecidableEq, Repr

/-- A host operation on a block without a fault record. -/
def hostEffect (op : HostOp) (s : State) : State × HostReply :=
  match op with
  | .coreReset origin => (s.coreReset origin, .done)
  | .memReset => (s.memReset, .done)
  | .load origin image => (s.load origin image, .done)
  | .readByte addr => (s, .byte (s.readByte addr))
  | .writeByte addr v => (s.writeByte addr v, .done)
  | .readWord addr =>
    match s.readWord addr with
    | (some w, t) => (t, .word w)
    | (none, t) => (t, .noValue)
  | .writeWord addr w => (s.writeWord addr w, .done)
  | .readState => (s, .state s)

/-- A host operation: none is accepted once the fault record is present (R107, log 9). -/
def hostOp (op : HostOp) (s : State) : Host.Outcome (State × HostReply) Fault Refusal :=
  match s.faultRecord with
  | some r => .fault (.blockFaulted r)
  | none => .next (hostEffect op s)

/-- The boot sequence up to the launch (R123): memory reset, Load at the origin, core reset with the same origin. -/
def State.boot (s : State) (origin : Byte) (image : List Byte) : State :=
  (s.memReset.load origin image).coreReset origin

/-- The block with the one thing the host's rights depend on: whether the run loop is in progress (R128, log 10). -/
structure Session where
  block   : State
  running : Bool
deriving DecidableEq, Repr

/-- A host operation in a session: only when the core is not running (R120, R121, R128, D14). -/
def Session.host (op : HostOp) (c : Session) : Host.Outcome (Session × HostReply) Fault Refusal :=
  if c.running then .refused .hostDuringRun
  else
    match hostOp op c.block with
    | .next (t, reply) => .next ({ c with block := t }, reply)
    | .fault f => .fault f
    | .refused r => .refused r

/-- Launch (R124): the run loop begins, unless PC is already the sentinel, when no step is taken and nothing changes
(R126). A block with a fault record accepts no launch (R107), and one is refused while a run is in progress. -/
def Session.launch (c : Session) : Host.Outcome Session Fault Refusal :=
  if c.running then .refused .hostDuringRun
  else
    match c.block.faultRecord with
    | some r => .fault (.blockFaulted r)
    | none => .next { c with running := !c.block.halted }

/-- One turn of the run loop (R124): a step if the loop is in progress; the run ends when PC is the sentinel after it
(R129). Nothing happens when no run is in progress. -/
def Session.turn (c : Session) : Host.Outcome Session Fault Refusal :=
  if c.running then
    match step c.block with
    | .next t => .next { block := t, running := !t.halted }
    | .fault f => .fault f
    | .refused r => .refused r
  else .next c

end Sys2Proof.Machine
end

