-- ==== Sys2Proof/Safety.lean ====
section
/-! DEFINITION. The terms claims are stated in: what an instruction may change and where it stores, what a frame is, what a
run is, and the invariant of the block's state. -/

namespace Sys2Proof.Machine

/-- The pieces of state an instruction may change. The fault record and the parameters are in none (R26, log 2). -/
inductive Field where
  | a | x | y | p | sp | pc | mem | out | draws
deriving DecidableEq, Repr

/-- Everything outside the listed fields is as before: registers, flags, every byte of memory, the output trace, and
always the fault record and the parameters. -/
structure Frame (changes : List Field) (s t : State) : Prop where
  a : Field.a ∉ changes → t.a = s.a
  x : Field.x ∉ changes → t.x = s.x
  y : Field.y ∉ changes → t.y = s.y
  p : Field.p ∉ changes → t.p = s.p
  sp : Field.sp ∉ changes → t.sp = s.sp
  pc : Field.pc ∉ changes → t.pc = s.pc
  mem : Field.mem ∉ changes → ∀ addr, t.readByte addr = s.readByte addr
  out : Field.out ∉ changes → t.out = s.out
  draws : Field.draws ∉ changes → t.draws = s.draws
  faultRecord : t.faultRecord = s.faultRecord
  params : t.params = s.params

/-- Executing the instruction in the state answers a next state, one with the given property. -/
def Completes (i : Instr) (s : State) (post : State → Prop) : Prop :=
  ∃ t, exec i s = .next t ∧ post t

/-- The bytes of an instruction under the reference assignment (R49, R50, R55), both ways. -/
def EncodedAs (bytes : List Byte) (i : Instr) : Prop :=
  encode OpcodeMap.reference i = bytes ∧
    ∀ rest, decode OpcodeMap.reference (bytes ++ rest) = .ok (i, rest)

/-- The bytes stand in memory from the address on, the address wrapping from 255 to 0. -/
def State.holds (s : State) (addr : Byte) : List Byte → Prop
  | [] => True
  | b :: bs => s.readByte addr = b ∧ State.holds s (addr + 1) bs

/-- The rule of an instruction, whole. Its bytes under the reference assignment; on EVERY state, executing it answers a
next state related to the first by `post`; and from every active state of a machine with the reference assignment in
which those bytes stand at PC, the step answers such a state too. -/
def Executes (bytes : List Byte) (i : Instr) (post : State → State → Prop) : Prop :=
  EncodedAs bytes i ∧
  (∀ s, Completes i s (post s)) ∧
  ∀ s : State, s.faultRecord = none → s.pc ≠ 0xFF#8 → s.params.opcodeMap = OpcodeMap.reference →
    s.holds s.pc bytes → ∃ t, step s = .next t ∧ post s t

end Sys2Proof.Machine

namespace Sys2Proof

open Sys2Proof.Machine

/-- What the spec lets each instruction write, besides PC, which every instruction advances or overwrites (R21): A by R13,
X by R14, Y by R15, P by R17, SP by R20, memory by R36, the output trace by R24; `draws` counts the draws of A. -/
def Instr.writes : Instr → List Field
  | .lda _ => [.pc, .a]
  | .ldx _ => [.pc, .x]
  | .ldy _ => [.pc, .y]
  | .sta _ => [.pc, .mem]
  | .stx _ => [.pc, .mem]
  | .sty _ => [.pc, .mem]
  | .txa => [.pc, .a]
  | .tya => [.pc, .a]
  | .tax => [.pc, .x]
  | .tay => [.pc, .y]
  | .tsx => [.pc, .x]
  | .txs => [.pc, .sp]
  | .pha => [.pc, .sp, .mem]
  | .php => [.pc, .sp, .mem]
  | .pla => [.pc, .a, .sp]
  | .plp => [.pc, .p, .sp]
  | .dec => [.pc, .a]
  | .dex => [.pc, .x]
  | .dey => [.pc, .y]
  | .inc => [.pc, .a]
  | .inx => [.pc, .x]
  | .iny => [.pc, .y]
  | .cmp _ => [.pc, .p]
  | .cmx _ => [.pc, .p]
  | .cmy _ => [.pc, .p]
  | .beq _ => [.pc, .p]
  | .bne _ => [.pc, .p]
  | .jmp _ => [.pc]
  | .jsr _ => [.pc, .a, .sp, .mem, .draws]
  | .rts => [.pc, .a, .x, .y, .p, .sp, .draws]
  | .oua => [.pc, .out]
  | .hlt => [.pc]
  | .apa => [.pc, .a]
  | .apx => [.pc, .a]
  | .apy => [.pc, .a]
  | .ada _ => [.pc, .a]
  | .adx _ => [.pc, .x]
  | .ady _ => [.pc, .y]
  | .nopZero => [.pc]
  | .nopUnassigned _ => [.pc]

/-- The addresses an instruction stores to from a state (R36): the operand address of a store, SP of a push, five bytes
from SP of JSR (R92). -/
def Instr.storesTo (s : State) : Instr → List Byte
  | .sta imm8 | .stx imm8 | .sty imm8 => [operandAddress imm8]
  | .pha | .php => [s.sp]
  | .jsr _ => [s.sp, s.sp + 1, s.sp + 2, s.sp + 3, s.sp + 4]
  | .lda _ | .ldx _ | .ldy _ | .txa | .tya | .tax | .tay | .tsx
  | .txs | .pla | .plp | .dec | .dex | .dey | .inc | .inx
  | .iny | .cmp _ | .cmx _ | .cmy _ | .beq _ | .bne _ | .jmp _ | .rts
  | .oua | .hlt | .apa | .apx | .apy | .ada _ | .adx _ | .ady _
  | .nopZero | .nopUnassigned _ => []

/-- The instructions that overwrite PC after their fetches (R21): the branches, JMP, JSR, RTS and HLT. -/
def Instr.setsPc : Instr → Bool
  | .beq _ | .bne _ | .jmp _ | .jsr _ | .rts | .hlt => true
  | .lda _ | .ldx _ | .ldy _ | .sta _ | .stx _ | .sty _ | .txa | .tya
  | .tax | .tay | .tsx | .txs | .pha | .php | .pla | .plp
  | .dec | .dex | .dey | .inc | .inx | .iny | .cmp _ | .cmx _
  | .cmy _ | .oua | .apa | .apx | .apy | .ada _ | .adx _ | .ady _
  | .nopZero | .nopUnassigned _ => false

/-- The instructions that can take EQ from 1 to 0 (R18, R88): the branches, and the two that load P whole. -/
def Instr.mayClearEq : Instr → Bool
  | .beq _ | .bne _ | .plp | .rts => true
  | .lda _ | .ldx _ | .ldy _ | .sta _ | .stx _ | .sty _ | .txa | .tya
  | .tax | .tay | .tsx | .txs | .pha | .php | .pla | .dec
  | .dex | .dey | .inc | .inx | .iny | .cmp _ | .cmx _ | .cmy _
  | .jmp _ | .jsr _ | .oua | .hlt | .apa | .apx | .apy | .ada _
  | .adx _ | .ady _
  | .nopZero | .nopUnassigned _ => false

end Sys2Proof

namespace Sys2Proof.Machine

/-- The byte at an address once a JSR from the state has pushed its call frame: P, A, the saved PC, X, Y from SP on
(R92), and the byte as it is elsewhere. -/
def State.frameByte (s : State) (b : Byte) : Byte :=
  if b = s.sp then s.p else if b = s.sp + 1 then s.a
  else if b = s.sp + 2 then (if s.params.jsrSavedPc = .nextInstr then s.pc + 2 else s.pc + 1)
  else if b = s.sp + 3 then s.x else if b = s.sp + 4 then s.y else s.readByte b

/-- A step is taken from the state (R60, R119): PC is not the sentinel and there is no fault record. -/
def State.active (s : State) : Bool := s.faultRecord.isNone && !s.halted

/-- A run of `n` steps in each of which the executed instruction is one of the allowed ones. -/
def Run (allowed : Instr → Bool) : Nat → State → State → Prop
  | 0, s, t => t = s
  | n + 1, s, t =>
    s.active = true ∧ allowed s.fetchInstr = true ∧ ∃ u, step s = .next u ∧ Run allowed n u t

/-- The instruction the block runs next is the one that an opcode byte and the byte after it decode to: it is the
instruction at PC, and unless PC is the sentinel the step executes it (R60). -/
def RunsNext (m : OpcodeMap) (t : State) (op next : Byte) : Prop :=
  t.fetchInstr = decodePair m op next ∧ (t.pc ≠ 0xFF#8 → step t = exec (decodePair m op next) t)

/-- Two states that agree in everything but A and the count of draws. -/
structure AgreeButA (s t : State) : Prop where
  x : t.x = s.x
  y : t.y = s.y
  p : t.p = s.p
  sp : t.sp = s.sp
  pc : t.pc = s.pc
  mem : t.mem = s.mem
  out : t.out = s.out
  faultRecord : t.faultRecord = s.faultRecord
  params : t.params = s.params

/-- The invariant of the block: the memory list is canonical, the opcode map meets R54, and a fault record can only be
that of R33. -/
structure Inv (s : State) : Prop where
  mem : s.mem.wf
  map : s.params.opcodeMap.Legal
  record : ∀ r, s.faultRecord = some r → r = topRecord

end Sys2Proof.Machine
end

