-- ==== Sys2Proof/Certificates/Slice0/Obligations.lean ====
section
/-! DEFINITION. The statements for the provers. Each is about every state and every value of the open parameters of R7
(they stand in State.params), unless it names one. -/

open Sys2Proof Sys2Proof.Machine

/-- R61; R62; R63. For every operand byte v: LDA v, LDX v and LDY v, encoded 01 v, 02 v, 03 v, complete on every state
with A, X or Y equal to v and PC two bytes further (modulo 256); every other register, P, every byte of memory, the
output trace and the fault record are unchanged; and from every running state with those bytes at PC the step does
so. -/
def Obligations.LoadsPutTheOperandInTheRegister : Prop :=
  ∀ v : Byte,
    Executes [0x01#8, v] (.lda v) (fun s t =>
      t.a = v ∧ t.pc = s.pc + 2 ∧ Frame [.a, .pc] s t) ∧
    Executes [0x02#8, v] (.ldx v) (fun s t =>
      t.x = v ∧ t.pc = s.pc + 2 ∧ Frame [.x, .pc] s t) ∧
    Executes [0x03#8, v] (.ldy v) (fun s t =>
      t.y = v ∧ t.pc = s.pc + 2 ∧ Frame [.y, .pc] s t)

/-- R64; R65; R66. For every address v: STA v, STX v and STY v, encoded 04 v, 05 v, 06 v, complete on every state;
afterwards the byte at v is A, X or Y, every other byte of memory reads as before, PC is two bytes further, and no
register, flag, output or fault record changes; and from every running state with those bytes at PC (even where v is
the address of one of them) the step does so. -/
def Obligations.StoresWriteTheRegisterAtTheOperandAddress : Prop :=
  ∀ v : Byte,
    Executes [0x04#8, v] (.sta v) (fun s t =>
      (∀ b, t.readByte b = if b = v then s.a else s.readByte b) ∧
      t.pc = s.pc + 2 ∧ Frame [.mem, .pc] s t) ∧
    Executes [0x05#8, v] (.stx v) (fun s t =>
      (∀ b, t.readByte b = if b = v then s.x else s.readByte b) ∧
      t.pc = s.pc + 2 ∧ Frame [.mem, .pc] s t) ∧
    Executes [0x06#8, v] (.sty v) (fun s t =>
      (∀ b, t.readByte b = if b = v then s.y else s.readByte b) ∧
      t.pc = s.pc + 2 ∧ Frame [.mem, .pc] s t)

/-- R67; R68; R69; R70; R71; R72. TXA, TYA, TAX, TAY, TSX, TXS, encoded 07 to 0C, complete on every state with A=X, A=Y,
X=A, Y=A, X=SP, SP=X (the values before), PC one byte further, and everything else (P, memory, the source register)
unchanged; and so does the step with that byte at PC. -/
def Obligations.TransfersCopyOneRegister : Prop :=
  Executes [0x07#8] .txa (fun s t =>
    t.a = s.x ∧ t.pc = s.pc + 1 ∧ Frame [.a, .pc] s t) ∧
  Executes [0x08#8] .tya (fun s t =>
    t.a = s.y ∧ t.pc = s.pc + 1 ∧ Frame [.a, .pc] s t) ∧
  Executes [0x09#8] .tax (fun s t =>
    t.x = s.a ∧ t.pc = s.pc + 1 ∧ Frame [.x, .pc] s t) ∧
  Executes [0x0A#8] .tay (fun s t =>
    t.y = s.a ∧ t.pc = s.pc + 1 ∧ Frame [.y, .pc] s t) ∧
  Executes [0x0B#8] .tsx (fun s t =>
    t.x = s.sp ∧ t.pc = s.pc + 1 ∧ Frame [.x, .pc] s t) ∧
  Executes [0x0C#8] .txs (fun s t =>
    t.sp = s.x ∧ t.pc = s.pc + 1 ∧ Frame [.sp, .pc] s t)

/-- R75; R76. PHA and PHP, encoded 0D and 0E, complete on every state: the byte at the old SP is A (PHP: all eight bits
of P), every other byte of memory is unchanged, SP is incremented modulo 256, PC is one byte further, and nothing
else changes; and so does the step with that byte at PC. -/
def Obligations.PushesWriteAtSpThenIncrementIt : Prop :=
  Executes [0x0D#8] .pha (fun s t =>
    (∀ b, t.readByte b = if b = s.sp then s.a else s.readByte b) ∧
      t.sp.toNat = (s.sp.toNat + 1) % 256 ∧ t.pc = s.pc + 1 ∧ Frame [.mem, .sp, .pc] s t) ∧
  Executes [0x0E#8] .php (fun s t =>
    (∀ b, t.readByte b = if b = s.sp then s.p else s.readByte b) ∧
      t.sp.toNat = (s.sp.toNat + 1) % 256 ∧ t.pc = s.pc + 1 ∧ Frame [.mem, .sp, .pc] s t)

/-- R77; R78. PLA and PLP, encoded 0F and 10, complete on every state: SP is decremented modulo 256 (0 gives 255), A
(PLP: all eight bits of P) is the byte at the new SP, PC is one byte further, no byte of memory changes, and nothing
else changes; and so does the step with that byte at PC. -/
def Obligations.PopsDecrementSpThenRead : Prop :=
  Executes [0x0F#8] .pla (fun s t =>
    ((t.sp.toNat : Int) = ((s.sp.toNat : Int) - 1) % 256) ∧ t.a = s.readByte t.sp ∧
      t.pc = s.pc + 1 ∧ Frame [.a, .sp, .pc] s t) ∧
  Executes [0x10#8] .plp (fun s t =>
    ((t.sp.toNat : Int) = ((s.sp.toNat : Int) - 1) % 256) ∧ t.p = s.readByte t.sp ∧
      t.pc = s.pc + 1 ∧ Frame [.p, .sp, .pc] s t)

/-- R79; R80; R81; R82; R83; R84. DEC, DEX, DEY, INC, INX, INY, encoded 11 to 16, complete on every state: A, X or Y as
an integer is one less or one more modulo 256, PC is one byte further, and P and everything else are unchanged; and
so does the step with that byte at PC. -/
def Obligations.IncrementsAndDecrementsWrapWithoutFlags : Prop :=
  Executes [0x11#8] .dec (fun s t =>
    ((t.a.toNat : Int) = ((s.a.toNat : Int) - 1) % 256) ∧ t.pc = s.pc + 1 ∧ Frame [.a, .pc] s t) ∧
  Executes [0x12#8] .dex (fun s t =>
    ((t.x.toNat : Int) = ((s.x.toNat : Int) - 1) % 256) ∧ t.pc = s.pc + 1 ∧ Frame [.x, .pc] s t) ∧
  Executes [0x13#8] .dey (fun s t =>
    ((t.y.toNat : Int) = ((s.y.toNat : Int) - 1) % 256) ∧ t.pc = s.pc + 1 ∧ Frame [.y, .pc] s t) ∧
  Executes [0x14#8] .inc (fun s t =>
    ((t.a.toNat : Int) = ((s.a.toNat : Int) + 1) % 256) ∧ t.pc = s.pc + 1 ∧ Frame [.a, .pc] s t) ∧
  Executes [0x15#8] .inx (fun s t =>
    ((t.x.toNat : Int) = ((s.x.toNat : Int) + 1) % 256) ∧ t.pc = s.pc + 1 ∧ Frame [.x, .pc] s t) ∧
  Executes [0x16#8] .iny (fun s t =>
    ((t.y.toNat : Int) = ((s.y.toNat : Int) + 1) % 256) ∧ t.pc = s.pc + 1 ∧ Frame [.y, .pc] s t)

/-- R85; R86; R87. For every operand byte v: CMP v, CMX v, CMY v, encoded 17 v, 18 v, 19 v, complete on every state: EQ
(bit 1 of P) is set afterwards exactly if it was set before or A, X, Y equals v; every other bit of P is unchanged;
PC is two bytes further; the registers, memory and everything else are unchanged; and so does the step with those
bytes at PC. -/
def Obligations.ComparesSetEqOnEqualityAndNeverClearIt : Prop :=
  ∀ v : Byte,
    Executes [0x17#8, v] (.cmp v) (fun s t =>
      t.p.getLsbD 1 = (s.p.getLsbD 1 || decide (s.a = v)) ∧
      (∀ k, k ≠ 1 → t.p.getLsbD k = s.p.getLsbD k) ∧ t.pc = s.pc + 2 ∧ Frame [.p, .pc] s t) ∧
    Executes [0x18#8, v] (.cmx v) (fun s t =>
      t.p.getLsbD 1 = (s.p.getLsbD 1 || decide (s.x = v)) ∧
      (∀ k, k ≠ 1 → t.p.getLsbD k = s.p.getLsbD k) ∧ t.pc = s.pc + 2 ∧ Frame [.p, .pc] s t) ∧
    Executes [0x19#8, v] (.cmy v) (fun s t =>
      t.p.getLsbD 1 = (s.p.getLsbD 1 || decide (s.y = v)) ∧
      (∀ k, k ≠ 1 → t.p.getLsbD k = s.p.getLsbD k) ∧ t.pc = s.pc + 2 ∧ Frame [.p, .pc] s t)

/-- R89; R90. For every target v: BEQ v and BNE v, encoded 1A v and 1B v, complete on every state: PC is v if EQ was set
(BNE: clear) before the instruction and two bytes further otherwise, EQ is 0 afterwards in both cases, every other
bit of P is unchanged, and nothing else changes; and so does the step with those bytes at PC. -/
def Obligations.BranchesDecideOnEqThenClearIt : Prop :=
  ∀ v : Byte,
    Executes [0x1A#8, v] (.beq v) (fun s t =>
      t.pc = (if s.p.getLsbD 1 = true then v else s.pc + 2) ∧ t.p.getLsbD 1 = false ∧
      (∀ k, k ≠ 1 → t.p.getLsbD k = s.p.getLsbD k) ∧ Frame [.p, .pc] s t) ∧
    Executes [0x1B#8, v] (.bne v) (fun s t =>
      t.pc = (if s.p.getLsbD 1 = false then v else s.pc + 2) ∧ t.p.getLsbD 1 = false ∧
      (∀ k, k ≠ 1 → t.p.getLsbD k = s.p.getLsbD k) ∧ Frame [.p, .pc] s t)

/-- R91. For every target v, 255 included: JMP v, encoded 1C v, completes on every state with PC = v and everything else
(EQ included) unchanged; and so does the step with those bytes at PC. -/
def Obligations.JumpSetsPcAlone : Prop :=
  ∀ v : Byte,
    Executes [0x1C#8, v] (.jmp v) (fun s t =>
      t.pc = v ∧ Frame [.pc] s t)

/-- R92; R93. For every target v: JSR v, encoded 1D v, completes on every state. With b the SP before: the bytes at b,
b+1, b+2, b+3, b+4 (modulo 256) are P, A, the saved PC, X, Y as before the JSR; the saved PC is p+2 under NEXT_INSTR
and p+1 under OPERAND_ADDR, modulo 256; every other byte is unchanged; SP is b+5; PC is v; X, Y, P and everything
else but A are unchanged. A is left free. The step with those bytes at PC does so too. -/
def Obligations.CallPushesTheFrameAndJumps : Prop :=
  ∀ v : Byte,
    Executes [0x1D#8, v] (.jsr v) (fun s t =>
      (∀ b, t.readByte b =
        if b = s.sp then s.p else if b = s.sp + 1 then s.a
        else if b = s.sp + 2 then (if s.params.jsrSavedPc = .nextInstr then s.pc + 2 else s.pc + 1)
        else if b = s.sp + 3 then s.x else if b = s.sp + 4 then s.y else s.readByte b) ∧
      t.sp = s.sp + 5 ∧ t.pc = v ∧ Frame [.a, .sp, .mem, .pc, .draws] s t)

/-- R94. RTS, encoded 1E, completes on every state: Y, X, PC and P are the bytes at SP-1, SP-2, SP-3 and SP-5 (modulo
256), SP is 5 less, the byte at SP-4 is not loaded, no byte of memory changes, and everything else but A is
unchanged. A is left free. The step with that byte at PC does so too. -/
def Obligations.ReturnPopsTheFrameInReverse : Prop :=
  Executes [0x1E#8] .rts (fun s t =>
    t.y = s.readByte (s.sp - 1) ∧ t.x = s.readByte (s.sp - 2) ∧ t.pc = s.readByte (s.sp - 3) ∧
      t.p = s.readByte (s.sp - 5) ∧ t.sp = s.sp - 5 ∧ Frame [.a, .x, .y, .p, .sp, .pc, .draws] s t)

/-- 45_control_flow.md rules R93 and R94; notes/assumptions/6.md. The model's form of the draws of R93 and R94
(assumption log 6): on every state JSR and RTS complete with A equal to the opaque free value numbered by the draw
counter, and the counter one higher. Nothing constrains the free value. Every other instruction leaves the counter
as it is. -/
def Obligations.CallAndReturnDrawAFreshFreeValueOfA : Prop :=
  (∀ v s, Completes (.jsr v) s fun t => t.a = Config.freeByte s.draws ∧ t.draws = s.draws + 1) ∧
  (∀ s, Completes .rts s fun t => t.a = Config.freeByte s.draws ∧ t.draws = s.draws + 1) ∧
  ∀ i s t, exec i s = .next t → (∀ v, i ≠ .jsr v) → i ≠ .rts → t.draws = s.draws

/-- R96. OUA, encoded 1F, completes on every state: the output trace is the old one with A appended at its end, PC is
one byte further, and A, P, memory and everything else are unchanged; and so does the step with that byte at PC. -/
def Obligations.OutputEmitsAOnce : Prop :=
  Executes [0x1F#8] .oua (fun s t =>
    t.out = s.out ++ [s.a] ∧ t.pc = s.pc + 1 ∧ Frame [.out, .pc] s t)

/-- R97. HLT, encoded 20, completes on every state with PC = 255 (so the core is halted) and every other register, P,
every byte of memory and the output trace unchanged; and so does the step with that byte at PC. -/
def Obligations.HaltSetsPcToTheSentinel : Prop :=
  Executes [0x20#8] .hlt (fun s t =>
    t.pc = 0xFF#8 ∧ t.halted = true ∧ Frame [.pc] s t)

/-- R98; R99; R100. APA, APX, APY, encoded 21 to 23, complete on every state: A as an integer is the sum of the old A
and the old A, X or Y modulo 256, PC is one byte further, and P, X, Y and everything else are unchanged; and so does
the step with that byte at PC. -/
def Obligations.RegisterAddsWrapWithoutFlags : Prop :=
  Executes [0x21#8] .apa (fun s t =>
    t.a.toNat = (s.a.toNat + s.a.toNat) % 256 ∧ t.pc = s.pc + 1 ∧ Frame [.a, .pc] s t) ∧
  Executes [0x22#8] .apx (fun s t =>
    t.a.toNat = (s.a.toNat + s.x.toNat) % 256 ∧ t.pc = s.pc + 1 ∧ Frame [.a, .pc] s t) ∧
  Executes [0x23#8] .apy (fun s t =>
    t.a.toNat = (s.a.toNat + s.y.toNat) % 256 ∧ t.pc = s.pc + 1 ∧ Frame [.a, .pc] s t)

/-- R101; R102; R103. For every operand byte v: ADA v, ADX v, ADY v, encoded 24 v, 25 v, 26 v, complete on every state:
A, X or Y as an integer is its old value plus v modulo 256, PC is two bytes further, and P and everything else are
unchanged; and so does the step with those bytes at PC. -/
def Obligations.ImmediateAddsWrapWithoutFlags : Prop :=
  ∀ v : Byte,
    Executes [0x24#8, v] (.ada v) (fun s t =>
      t.a.toNat = (s.a.toNat + v.toNat) % 256 ∧ t.pc = s.pc + 2 ∧ Frame [.a, .pc] s t) ∧
    Executes [0x25#8, v] (.adx v) (fun s t =>
      t.x.toNat = (s.x.toNat + v.toNat) % 256 ∧ t.pc = s.pc + 2 ∧ Frame [.x, .pc] s t) ∧
    Executes [0x26#8, v] (.ady v) (fun s t =>
      t.y.toNat = (s.y.toNat + v.toNat) % 256 ∧ t.pc = s.pc + 2 ∧ Frame [.y, .pc] s t)

/-- R105. The byte 00, and each byte 27 to FF under the reference assignment, completes on every state with PC one byte
further and everything else unchanged, at the step too. And under every opcode map, from every running state whose
byte at PC is 00 or is mapped to by no mnemonic, the step does the same, whatever the byte after it is. -/
def Obligations.NoopsConsumeOnlyTheOpcode : Prop :=
  Executes [0x00#8] .nopZero (fun s t => t.pc = s.pc + 1 ∧ Frame [.pc] s t) ∧
  (∀ op : Byte, 0x27 ≤ op.toNat →
    Executes [op] (.nopUnassigned op) (fun s t => t.pc = s.pc + 1 ∧ Frame [.pc] s t)) ∧
  (∀ op s, Completes (.nopUnassigned op) s (fun t => t.pc = s.pc + 1 ∧ Frame [.pc] s t)) ∧
  ∀ s : State, s.faultRecord = none → s.pc ≠ 0xFF#8 →
    (s.readByte s.pc = 0x00#8 ∨ ∀ mn, s.params.opcodeMap.code mn ≠ s.readByte s.pc) →
    ∃ t, step s = .next t ∧ t.pc = s.pc + 1 ∧ Frame [.pc] s t

/-- 30_encoding.md rules R48 to R57. For every opcode map that meets R54 (injective, 0x00 not used), every instruction
that is well-formed under it, every operand byte, and any bytes after it: decoding the encoded instruction gives the
instruction and the bytes after it. -/
def Obligations.DecodeOfEncodeIsTheInstruction : Prop :=
  ∀ m : OpcodeMap, m.Legal → ∀ (i : Instr) (rest : List Byte), i.wellFormed m = true →
    decode m (encode m i ++ rest) = .ok (i, rest)

/-- 30_encoding.md rules R48 to R57. Under every opcode map: if decoding a list of bytes gives an instruction and a
rest, then the instruction is well-formed and the list is the instruction's encoding followed by the rest. -/
def Obligations.EncodeOfDecodeIsTheBytes : Prop :=
  ∀ (m : OpcodeMap) (bytes rest : List Byte) (i : Instr), decode m bytes = .ok (i, rest) →
    i.wellFormed m = true ∧ bytes = encode m i ++ rest

/-- R53. Under every legal opcode map and for every opcode byte followed by at least one byte: if a mnemonic maps to the
byte, decoding gives that mnemonic's instruction (with the next byte as its operand if it is one of format OI); if
none does, or the byte is 00, it gives the one-byte no-op. -/
def Obligations.DecodeIsTotalOnBytes : Prop :=
  ∀ m : OpcodeMap, m.Legal → ∀ (op next : Byte) (rest : List Byte),
    (∀ mn, m.code mn = op →
      decode m (op :: next :: rest) = .ok (mn.instr next, if mn.hasOperand then rest else next :: rest)) ∧
    ((op = 0x00#8 ∨ ∀ mn, m.code mn ≠ op) →
      decode m (op :: next :: rest) = .ok (if op = 0x00#8 then .nopZero else .nopUnassigned op, next :: rest))

/-- 30_encoding.md rules R54, R55 and R57. Sanity: under the reference assignment, which meets R54, the bytes 01 v, 04
v, 07, 0D, 11, 17 v, 1A v, 1D v, 1E, 1F, 20, 21, 24 v, 00 and 27 decode to LDA v, STA v, TXA, PHA, DEC, CMP v, BEQ
v, JSR v, RTS, OUA, HLT, APA, ADA v and the two no-ops. -/
def Obligations.SampleWordsDecodeAsTheSpecEncodesThem : Prop :=
  OpcodeMap.reference.Legal ∧
  ∀ (v : Byte) (rest : List Byte),
    decode OpcodeMap.reference (0x01#8 :: v :: rest) = .ok (.lda v, rest) ∧
    decode OpcodeMap.reference (0x04#8 :: v :: rest) = .ok (.sta v, rest) ∧
    decode OpcodeMap.reference (0x07#8 :: rest) = .ok (.txa, rest) ∧
    decode OpcodeMap.reference (0x0D#8 :: rest) = .ok (.pha, rest) ∧
    decode OpcodeMap.reference (0x11#8 :: rest) = .ok (.dec, rest) ∧
    decode OpcodeMap.reference (0x17#8 :: v :: rest) = .ok (.cmp v, rest) ∧
    decode OpcodeMap.reference (0x1A#8 :: v :: rest) = .ok (.beq v, rest) ∧
    decode OpcodeMap.reference (0x1D#8 :: v :: rest) = .ok (.jsr v, rest) ∧
    decode OpcodeMap.reference (0x1E#8 :: rest) = .ok (.rts, rest) ∧
    decode OpcodeMap.reference (0x1F#8 :: rest) = .ok (.oua, rest) ∧
    decode OpcodeMap.reference (0x20#8 :: rest) = .ok (.hlt, rest) ∧
    decode OpcodeMap.reference (0x21#8 :: rest) = .ok (.apa, rest) ∧
    decode OpcodeMap.reference (0x24#8 :: v :: rest) = .ok (.ada v, rest) ∧
    decode OpcodeMap.reference (0x00#8 :: rest) = .ok (.nopZero, rest) ∧
    decode OpcodeMap.reference (0x27#8 :: rest) = .ok (.nopUnassigned 0x27#8, rest)

/-- 30_encoding.md rules R52, R53 and R60. From every state with no fault record and PC not 255, under any opcode map:
if the byte at PC and the byte after it (modulo 256) decode to a well-formed instruction i, the step is exec of i at
that state; exec itself moves PC past the instruction's bytes. -/
def Obligations.StepRunsTheDecodedInstruction : Prop :=
  ∀ (s : State) (i : Instr) (rest : List Byte), s.faultRecord = none → s.pc ≠ 0xFF#8 →
    decode s.params.opcodeMap [s.readByte s.pc, s.readByte (s.pc + 1)] = .ok (i, rest) →
    i.wellFormed s.params.opcodeMap = true → step s = exec i s

/-- 70_reset_and_hazards.md rule R122; 30_encoding.md rule R60; notes/assumptions/11.md. From every running state of a
machine with the reference assignment: if the bits w decode to an instruction i, then the step of the state with
those bits placed for the next fetch is exec of i at that state, and placing them changes no register. -/
def Obligations.StepRunsAPlacedInstruction : Prop :=
  ∀ (s : State) (nbits w : Nat) (i : Instr), s.faultRecord = none → s.pc ≠ 0xFF#8 →
    s.params.opcodeMap = OpcodeMap.reference → decodeTableWord nbits w = some i →
    step (s.withFetchWord nbits w) = exec i (s.withFetchWord nbits w) ∧ Frame [.mem] s (s.withFetchWord nbits w)

/-- R106; R113. No instruction raises an exception: exec of every instruction on every state, whatever its registers,
flags and memory, answers a next state with the same fault record; and from every state with no fault record and PC
not 255 the step answers a next state. -/
def Obligations.NoInstructionFaultsOrIsRefused : Prop :=
  (∀ i s, ∃ t, exec i s = .next t ∧ t.faultRecord = s.faultRecord) ∧
  ∀ s : State, s.faultRecord = none → s.pc ≠ 0xFF#8 → ∃ t, step s = .next t ∧ t.faultRecord = none

/-- 60_exceptions.md rules R107 and R119; notes/assumptions/9.md. With a fault record present, the step, every host
operation and a launch stop with that record: the block takes no further step and accepts no further host operation. -/
def Obligations.FaultedBlockStopsForGood : Prop :=
  ∀ (s : State) (r : FaultRecord), s.faultRecord = some r →
    step s = .fault (.blockFaulted r) ∧ (∀ op, hostOp op s = .fault (.blockFaulted r)) ∧
    (∀ fuel, launch fuel s = .stopped r) ∧
    Session.launch { block := s, running := false } = .fault (.blockFaulted r)

/-- 70_reset_and_hazards.md rule R126; 60_exceptions.md rule R119; notes/assumptions/7.md. With PC = 255 and no fault
record: a launch with any fuel ends at once with the state unchanged, and a session's launch starts no run. The step
answering the unchanged state is the model's choice (assumption log 7). -/
def Obligations.HaltedCoreStaysAsItIs : Prop :=
  ∀ s : State, s.faultRecord = none → s.pc = 0xFF#8 →
    (∀ fuel, launch fuel s = .ended s) ∧ step s = .next s ∧
    Session.launch { block := s, running := false } = .next { block := s, running := false }

/-- R33. For every block without a fault record and every word w. Under FAULT a word read and a word write at address
255 return no value, change no byte and no register, and set the fault record to (WordAccessAtTop, 255). Under WRAP
the read returns M[255]*256 + M[0] and changes nothing, and the write puts the high byte at 255, the low byte at 0,
and changes no other byte and no register. -/
def Obligations.WordAccessAtTheTopFollowsThePolicy : Prop :=
  ∀ (s : State) (w : Word), s.faultRecord = none →
    (s.params.wordTopPolicy = .fault →
      s.readWord 0xFF#8 = (none, { s with faultRecord := some { reason := .wordAccessAtTop, addr := 0xFF#8 } }) ∧
      s.writeWord 0xFF#8 w = { s with faultRecord := some { reason := .wordAccessAtTop, addr := 0xFF#8 } }) ∧
    (s.params.wordTopPolicy = .wrap →
      (∃ u : Word, s.readWord 0xFF#8 = (some u, s) ∧
        u.toNat = (s.readByte 0xFF#8).toNat * 256 + (s.readByte 0x00#8).toNat) ∧
      Frame [.mem] s (s.writeWord 0xFF#8 w) ∧
      ∀ b, ((s.writeWord 0xFF#8 w).readByte b).toNat =
        if b = 0xFF#8 then w.toNat / 256 else if b = 0x00#8 then w.toNat % 256 else (s.readByte b).toNat)

/-- R31; R32. For every address a other than 255, every state and every word w: the word read returns M[a]*256 + M[a+1]
and changes nothing; the word write puts the high byte at a and the low byte at a+1, changes no other byte and no
register; and a word read after the word write at the same address returns w. -/
def Obligations.WordsAreBigEndianAndRoundTrip : Prop :=
  ∀ (s : State) (a : Byte) (w : Word), a ≠ 0xFF#8 →
    (∃ u : Word, s.readWord a = (some u, s) ∧
      u.toNat = (s.readByte a).toNat * 256 + (s.readByte (a + 1)).toNat) ∧
    Frame [.mem] s (s.writeWord a w) ∧
    (∀ b, ((s.writeWord a w).readByte b).toNat =
      if b = a then w.toNat / 256 else if b = a + 1 then w.toNat % 256 else (s.readByte b).toNat) ∧
    (s.writeWord a w).readWord a = (some w, s.writeWord a w)

/-- 20_memory.md rule R34; 70_reset_and_hazards.md rule R121. After a memory reset every byte of memory reads 0, and no
register, flag, output, fault record or parameter has changed. -/
def Obligations.MemoryResetZeroesEveryByte : Prop :=
  ∀ s : State, (∀ b, s.memReset.readByte b = 0x00#8) ∧ Frame [.mem] s s.memReset

/-- R27. A block created with any origin has A, X, Y, all of P and SP zero, PC the origin, an empty output trace, every
byte of memory 0 and no fault record; a core reset of any state sets the same registers, PC and trace and leaves
every byte of memory, the fault record and the parameters as they were; and after a memory reset every byte is 0. -/
def Obligations.CreationAndCoreResetGiveTheInitialValues : Prop :=
  (∀ (params : Params) (origin : Byte), let s := State.create params origin
    s.a = 0x00#8 ∧ s.x = 0x00#8 ∧ s.y = 0x00#8 ∧ s.p = 0x00#8 ∧ s.sp = 0x00#8 ∧ s.pc = origin ∧ s.out = [] ∧
      s.faultRecord = none ∧ ∀ b, s.readByte b = 0x00#8) ∧
  ∀ (s : State) (origin : Byte), let t := s.coreReset origin
    t.a = 0x00#8 ∧ t.x = 0x00#8 ∧ t.y = 0x00#8 ∧ t.p = 0x00#8 ∧ t.sp = 0x00#8 ∧ t.pc = origin ∧ t.out = [] ∧
      Frame [.a, .x, .y, .p, .sp, .pc, .out] s t ∧ ∀ b, t.memReset.readByte b = 0x00#8

/-- R122. For every state, origin and image of any length: after Load, the byte at (origin + i) modulo 256 is image byte
i unless a later byte of the image falls on the same address; every byte the image does not cover is unchanged; and
no register changes. -/
def Obligations.LoadPlacesTheImageWithWrap : Prop :=
  ∀ (s : State) (origin : Byte) (image : List Byte),
    (∀ i v, image[i]? = some v → image.length ≤ i + 256 →
      (s.load origin image).readByte (origin + BitVec.ofNat 8 i) = v) ∧
    (∀ b, (∀ i, i < image.length → b ≠ origin + BitVec.ofNat 8 i) → (s.load origin image).readByte b = s.readByte b) ∧
    Frame [.mem] s (s.load origin image)

/-- 70_reset_and_hazards.md rules R120, R122 and R123. For every block without a fault record, every origin and image:
loading after the core reset gives the same state as loading before it, and the booted block has PC at the origin,
the other registers 0, an empty trace, no fault record and the parameters as before; the byte at (origin + i) modulo
256 is image byte i unless a later byte of the image falls on the same address; and every byte the image does not
cover is 0. -/
def Obligations.BootStepsCommute : Prop :=
  ∀ (s : State) (origin : Byte) (image : List Byte), s.faultRecord = none →
    s.boot origin image = (s.memReset.coreReset origin).load origin image ∧
    (s.boot origin image).a = 0x00#8 ∧ (s.boot origin image).x = 0x00#8 ∧ (s.boot origin image).y = 0x00#8 ∧
    (s.boot origin image).p = 0x00#8 ∧ (s.boot origin image).sp = 0x00#8 ∧ (s.boot origin image).pc = origin ∧
    (s.boot origin image).out = [] ∧ (s.boot origin image).faultRecord = none ∧
    (s.boot origin image).params = s.params ∧
    (∀ i v, image[i]? = some v → image.length ≤ i + 256 →
      (s.boot origin image).readByte (origin + BitVec.ofNat 8 i) = v) ∧
    ∀ b, (∀ i, i < image.length → b ≠ origin + BitVec.ofNat 8 i) → (s.boot origin image).readByte b = 0x00#8

/-- 70_reset_and_hazards.md rules R120, R121, R124, R126 and R128; 20_memory.md rule R47; notes/assumptions/10.md. In a
session whose run loop is in progress every host operation and a launch are refused by name. In one whose run loop
is not in progress, on a block without a fault record: every host operation completes as it does on the block alone,
and the session stays not running; a launch with PC other than 255 starts the run and changes nothing in the block;
a launch with PC = 255 changes nothing. The session and the refusal are the model's form (assumption log 10). -/
def Obligations.HostActsOnlyBetweenRuns : Prop :=
  ∀ c : Session,
    (c.running = true → (∀ op, c.host op = .refused .hostDuringRun) ∧ c.launch = .refused .hostDuringRun) ∧
    (c.running = false → c.block.faultRecord = none →
      (∀ op, ∃ t reply, hostOp op c.block = .next (t, reply) ∧
        c.host op = .next ({ block := t, running := false }, reply)) ∧
      (c.block.pc ≠ 0xFF#8 → c.launch = .next { block := c.block, running := true }) ∧
      (c.block.pc = 0xFF#8 → c.launch = .next { block := c.block, running := false }))

/-- R29; R30. For every block without a fault record, every address a, byte v and address b: the host's byte write at a
completes in a state that differs at most in memory; a byte read at b then returns v if b is a and the byte at b
before the write otherwise, and changes nothing. -/
def Obligations.HostByteWriteIsReadBack : Prop :=
  ∀ (s : State) (a v b : Byte), s.faultRecord = none →
    ∃ t, hostOp (.writeByte a v) s = .next (t, .done) ∧ Frame [.mem] s t ∧
      hostOp (.readByte b) t = .next (t, .byte (if b = a then v else s.readByte b))

/-- 70_reset_and_hazards.md rules R124, R126 and R128; notes/assumptions/10.md. For every session in which a run in
progress means that PC is not 255 and there is no fault record: every host operation, every launch and every turn of
the run loop that completes gives such a session again; a turn of a run in progress is one step of the block, and
the run ends exactly when PC is 255 after it. The session is the model's form (assumption log 10). -/
def Obligations.SessionsRunOnlyActiveBlocks : Prop :=
  ∀ c : Session, (c.running = true → c.block.active = true) →
    (∀ op d reply, c.host op = .next (d, reply) → d.running = true → d.block.active = true) ∧
    (∀ d, c.launch = .next d → d.running = true → d.block.active = true) ∧
    (∀ d, c.turn = .next d → d.running = true → d.block.active = true) ∧
    (c.running = true → ∃ t, step c.block = .next t ∧ c.turn = .next { block := t, running := decide (t.pc ≠ 0xFF#8) })

/-- 70_reset_and_hazards.md rules R124 and R129. For every fuel and states s, t: the launch from s ends in t within the
fuel exactly if some run of at most that many steps, each from a state with PC not 255 and no fault record, leads
from s to t, and t has PC = 255 and no fault record. -/
def Obligations.LaunchIsTheRunOfSteps : Prop :=
  ∀ (fuel : Nat) (s t : State), launch fuel s = .ended t ↔
    (∃ n, n ≤ fuel ∧ Run (fun _ => true) n s t) ∧ t.pc = 0xFF#8 ∧ t.faultRecord = none

/-- 10_state.md rules R13 to R15, R17, R20 and R24; 20_memory.md rule R36. For every instruction and state: A changes
only by LDA, TXA, TYA, PLA, DEC, INC, APA, APX, APY, ADA, JSR, RTS; X only by LDX, TAX, TSX, DEX, INX, ADX, RTS; Y
only by LDY, TAY, DEY, INY, ADY, RTS; P only by CMP, CMX, CMY, BEQ, BNE, PLP, RTS; SP only by TXS, PHA, PHP, PLA,
PLP, JSR, RTS; memory only by STA, STX, STY, PHA, PHP, JSR; the trace only by OUA; the fault record and the
parameters never. -/
def Obligations.EveryInstructionKeepsItsFrame : Prop :=
  ∀ (i : Instr) (s t : State), exec i s = .next t → Frame i.writes s t

/-- 20_memory.md rules R30 and R36; 45_control_flow.md rule R92. For every instruction and state: every byte of memory
outside the addresses it stores to (the operand address of STA, STX, STY; SP of PHA and PHP; SP to SP+4 of JSR; none
for every other instruction), computed on the state before it, is unchanged. -/
def Obligations.StoresTouchOnlyTheirOwnBytes : Prop :=
  ∀ (i : Instr) (s t : State), exec i s = .next t → ∀ b, b ∉ i.storesTo s → t.readByte b = s.readByte b

/-- 10_state.md rule R21; 30_encoding.md rules R48 and R57. For every instruction other than BEQ, BNE, JMP, JSR, RTS and
HLT and every state, executing it completes with PC equal to p plus the length of its encoding (one byte or two),
modulo 256. -/
def Obligations.PcAdvancesByTheInstructionsLength : Prop :=
  ∀ (m : OpcodeMap) (i : Instr) (s : State), i.setsPc = false →
    Completes i s fun t => t.pc.toNat = (s.pc.toNat + (encode m i).length) % 256

/-- R88. For every run of any number of steps in which no executed instruction is BEQ, BNE, PLP or RTS: if EQ is set
before the run it is set after it. -/
def Obligations.EqIsClearedOnlyByBranchesPlpAndRts : Prop :=
  ∀ (n : Nat) (s t : State), Run (fun i => !i.mayClearEq) n s t → s.p.getLsbD 1 = true → t.p.getLsbD 1 = true

/-- 10_state.md rule R19. For every run of any number of steps in which no executed instruction is PLP or RTS, each of
bits 0 and 2 to 7 of P has the same value after the run as before it. -/
def Obligations.ReservedStatusBitsArePreserved : Prop :=
  ∀ (n : Nat) (s t : State), Run (fun i => decide (i ≠ .plp ∧ i ≠ .rts)) n s t →
    ∀ k, k ≠ 1 → t.p.getLsbD k = s.p.getLsbD k

/-- R24. From every running state, the step's trace is the old one with A appended if the instruction at PC is OUA, and
the old one otherwise; over a run of any number of steps the old trace is a prefix of the new one; and a core reset
empties the trace. -/
def Obligations.OutputTraceGrowsOnlyByOua : Prop :=
  (∀ s t : State, s.active = true → step s = .next t →
    t.out = s.out ++ (if s.fetchInstr = .oua then [s.a] else [])) ∧
  (∀ (n : Nat) (s t : State), Run (fun _ => true) n s t → s.out <+: t.out) ∧
  ∀ (s : State) (origin : Byte), (s.coreReset origin).out = []

/-- 10_state.md rule R26; 60_exceptions.md rules R106 and R107; 00_scope.md rule R7; notes/assumptions/2.md. For every
run of at least one step: there is no fault record before it nor after it (R26, R106, R107), and the parameters of
R7 are the same after it as before it; that they stand in the state and that no step changes them is the model's own
choice (assumption log 2). -/
def Obligations.RunsNeverSetTheFaultRecord : Prop :=
  ∀ (n : Nat) (s t : State), Run (fun _ => true) (n + 1) s t →
    s.faultRecord = none ∧ t.faultRecord = none ∧ t.params = s.params

/-- 20_memory.md rules R28 and R30; 30_encoding.md rule R54; 10_state.md rule R26; notes/assumptions/12.md. For every
state that meets the invariant (the memory list is canonical: addresses strictly rising below 256 and no zero byte
listed; the opcode map meets R54; a fault record can only be that of R33): if the step answers a next state, that
state meets it too. -/
def Obligations.InvariantIsKeptByEveryStep : Prop :=
  ∀ s t : State, Inv s → step s = .next t → Inv t

/-- 10_state.md rule R27; notes/assumptions/12.md. The state after reset meets the invariant, and so does a block
created with any origin and any parameters whose opcode map meets R54. -/
def Obligations.InvariantHoldsAtCreation : Prop :=
  Inv State.reset ∧ ∀ (params : Params) (origin : Byte), params.opcodeMap.Legal → Inv (State.create params origin)

/-- 70_reset_and_hazards.md rules R120 to R122; 20_memory.md rules R29 to R34; notes/assumptions/12.md. For every state
that meets the invariant and every host operation (core reset, memory reset, load, byte and word reads and writes,
reading the state): if the operation completes, the block's state afterwards meets the invariant. -/
def Obligations.InvariantIsKeptByHostOperations : Prop :=
  ∀ (s t : State) (op : HostOp) (reply : HostReply), Inv s → hostOp op s = .next (t, reply) → Inv t

/-- 20_memory.md rule R28; notes/assumptions/12.md. If two memories are in canonical form and every address reads the
same in both, they are equal. -/
def Obligations.CanonicalMemoryIsDeterminedByItsBytes : Prop :=
  ∀ m m' : Memory, m.wf → m'.wf → (∀ b, m.read b = m'.read b) → m = m'

/-- 45_control_flow.md rule R95; 45_control_flow.md rule R93 (the saved PC under OPERAND_ADDR); notes/assumptions/4.md.
For every JSR from any state s at p, and any later state u with the SP the JSR left and the five frame bytes
unchanged (whatever else the subroutine did): RTS completes with X, Y and P as in s, SP as in s, and PC = p+2 modulo
256 under the default NEXT_INSTR (R95). That PC is p+1 under OPERAND_ADDR is no part of R95: it follows from the
saved PC of R93. A is left free. -/
def Obligations.CallThenReturnRestoresTheCaller : Prop :=
  ∀ (target : Byte) (s c u : State), exec (.jsr target) s = .next c → u.sp = c.sp →
    (∀ b, b ∈ [s.sp, s.sp + 1, s.sp + 2, s.sp + 3, s.sp + 4] → u.readByte b = c.readByte b) →
    Completes .rts u fun r => r.x = s.x ∧ r.y = s.y ∧ r.p = s.p ∧ r.sp = s.sp ∧
      r.pc = if s.params.jsrSavedPc = .nextInstr then s.pc + 2 else s.pc + 1

/-- 42_stack.md rules R73, R74 and R77; 41_transfer.md rule R72. For every state: PHA then PLA, whatever A is in
between, gives A its old value and SP its old value; PHP then PLP likewise for P; and after TXS with X = b + 1, PLA
gives A the byte at b. -/
def Obligations.PopUndoesPush : Prop :=
  (∀ (s : State) (v : Byte), Completes .pha s fun t => Completes (.lda v) t fun u => Completes .pla u fun r =>
    r.a = s.a ∧ r.sp = s.sp) ∧
  (∀ s : State, Completes .php s fun t => Completes .plp t fun r => r.p = s.p ∧ r.sp = s.sp) ∧
  ∀ (s : State) (b : Byte), s.x = b + 1 → Completes .txs s fun t => Completes .pla t fun r =>
    r.a = s.readByte b ∧ r.sp = b

/-- 20_memory.md rule R45; 70_reset_and_hazards.md rule R134. From every running state whose instruction at PC is STA v,
STX v or STY v: the step completes with PC = p+2, and the byte at v, the operand as it was fetched, is A, X or Y,
even where v is the address of a byte of the instruction itself. The instruction run next is the one decoded from
the bytes at p+2 and p+3 (modulo 256) with the stored byte in the place of either that v names, and the bytes before
the step otherwise. -/
def Obligations.StoredByteIsSeenByTheNextFetch : Prop :=
  ∀ (s : State) (v : Byte), s.active = true →
    (s.fetchInstr = .sta v →
      ∃ t, step s = .next t ∧ t.readByte v = s.a ∧ t.pc = s.pc + 2 ∧
        RunsNext s.params.opcodeMap t (if s.pc + 2 = v then s.a else s.readByte (s.pc + 2))
          (if s.pc + 3 = v then s.a else s.readByte (s.pc + 3))) ∧
    (s.fetchInstr = .stx v →
      ∃ t, step s = .next t ∧ t.readByte v = s.x ∧ t.pc = s.pc + 2 ∧
        RunsNext s.params.opcodeMap t (if s.pc + 2 = v then s.x else s.readByte (s.pc + 2))
          (if s.pc + 3 = v then s.x else s.readByte (s.pc + 3))) ∧
    (s.fetchInstr = .sty v →
      ∃ t, step s = .next t ∧ t.readByte v = s.y ∧ t.pc = s.pc + 2 ∧
        RunsNext s.params.opcodeMap t (if s.pc + 2 = v then s.y else s.readByte (s.pc + 2))
          (if s.pc + 3 = v then s.y else s.readByte (s.pc + 3)))

/-- 70_reset_and_hazards.md rules R125 and R131; 10_state.md rule R21; notes/assumptions/8.md. From every running state
with PC = 254 whose instruction is not BEQ, BNE, JMP, JSR, RTS or HLT: the step completes; if the instruction is one
of the two-byte ones PC is 0 afterwards and the core is not halted, and if it has one byte PC is 255 and the core is
halted. -/
def Obligations.OperandFetchAtTheTopWrapsWithoutHalting : Prop :=
  ∀ s : State, s.faultRecord = none → s.pc = 0xFE#8 → s.fetchInstr.setsPc = false →
    ∃ t, step s = .next t ∧
      (s.fetchInstr.length = 2 → t.pc = 0x00#8 ∧ t.halted = false) ∧
      (s.fetchInstr.length = 1 → t.pc = 0xFF#8 ∧ t.halted = true)

/-- 70_reset_and_hazards.md rule R124; 10_state.md rule R21; 30_encoding.md rule R52; notes/assumptions/16.md. From
every running state whose step ends with PC = 255: the instruction was HLT; a taken BEQ or BNE, a JMP or a JSR with
target 255; an RTS that pops 255; a one-byte instruction at 254; or a two-byte instruction at 253, which R124's list
leaves out and R21 and R52 give (assumption log 16). -/
def Obligations.SentinelIsReachedOnlyInKnownWays : Prop :=
  ∀ s t : State, s.active = true → step s = .next t → t.pc = 0xFF#8 →
    s.fetchInstr = .hlt ∨ (s.fetchInstr = .beq 0xFF#8 ∧ s.p.getLsbD 1 = true) ∨
    (s.fetchInstr = .bne 0xFF#8 ∧ s.p.getLsbD 1 = false) ∨ s.fetchInstr = .jmp 0xFF#8 ∨
    s.fetchInstr = .jsr 0xFF#8 ∨ (s.fetchInstr = .rts ∧ s.readByte (s.sp - 3) = 0xFF#8) ∨
    (s.fetchInstr.length = 1 ∧ s.pc = 0xFE#8) ∨
    (s.fetchInstr.length = 2 ∧ s.pc = 0xFD#8)

/-- 70_reset_and_hazards.md rule R124; notes/assumptions/16.md. R124's list read word for word: PC reaches 255 at an
instruction boundary only by HLT, a taken branch, JMP or JSR to 255, an RTS that pops 255, or a one-byte instruction
at 254. Expected to fail: by R21 and R52 a two-byte instruction at 253 leaves PC = 255 too (assumption log 16). -/
def Obligations.SentinelIsReachedOnlyAsR124Lists : Prop :=
  ∀ s t : State, s.active = true → step s = .next t → t.pc = 0xFF#8 →
    s.fetchInstr = .hlt ∨ (s.fetchInstr = .beq 0xFF#8 ∧ s.p.getLsbD 1 = true) ∨
    (s.fetchInstr = .bne 0xFF#8 ∧ s.p.getLsbD 1 = false) ∨ s.fetchInstr = .jmp 0xFF#8 ∨
    s.fetchInstr = .jsr 0xFF#8 ∨ (s.fetchInstr = .rts ∧ s.readByte (s.sp - 3) = 0xFF#8) ∨
    (s.fetchInstr.length = 1 ∧ s.pc = 0xFE#8)

/-- 48_noop.md rule R105; 70_reset_and_hazards.md rule R124; 20_memory.md rule R35. For every state with no fault record
whose 256 bytes of memory all read 0, under any opcode map and at any PC: the launch ends after exactly 255 - PC
steps in the same state but with PC = 255. -/
def Obligations.ZeroMemorySlidesToTheHalt : Prop :=
  ∀ s : State, s.faultRecord = none → (∀ b, s.readByte b = 0x00#8) →
    Run (fun _ => true) (255 - s.pc.toNat) s { s with pc := 0xFF#8 } ∧
    launch (255 - s.pc.toNat) s = .ended { s with pc := 0xFF#8 }

/-- 45_control_flow.md rule R90; 70_reset_and_hazards.md rule R127. From every running state with EQ clear whose
instruction at PC is BNE to PC itself: the launch with any fuel is still unfinished in that same state, so there is
no step limit. -/
def Obligations.BranchToItselfRunsForEver : Prop :=
  ∀ s : State, s.active = true → s.p.getLsbD 1 = false → s.fetchInstr = .bne s.pc →
    ∀ fuel, launch fuel s = .unfinished s

/-- 60_exceptions.md rule R119; notes/assumptions/6.md. For every state s and every other value of the model's draw
counter: the step from s and the step from s with that counter answer states that agree in everything but A and the
counter; and they agree in A too unless the instruction is JSR or RTS. -/
def Obligations.OnlyTheDrawnADependsOnTheDraws : Prop :=
  ∀ (s t : State) (n : Nat), s.active = true → step s = .next t →
    ∃ t', step { s with draws := n } = .next t' ∧ AgreeButA t t' ∧
      ((∀ v, s.fetchInstr ≠ .jsr v) → s.fetchInstr ≠ .rts → t'.a = t.a)

/-- 20_memory.md rules R30 to R34; 70_reset_and_hazards.md rules R120, R121, R122 and R129. For every block without a
fault record: the host's core reset, memory reset, load, byte write and word write answer the state of the block's
operation of that name and return no value; the word read at an address other than 255, or at 255 under WRAP,
returns M[a]*256 + M[a+1] (a+1 modulo 256) and changes nothing; under FAULT a word read at 255 returns no value, and
it and a word write at 255 answer the same state with the fault record (WordAccessAtTop, 255) set; reading the state
returns it and changes nothing. What those operations do to the state is stated by O27 to O31. -/
def Obligations.HostOperationsAnswerTheirEffects : Prop :=
  ∀ s : State, s.faultRecord = none →
    (∀ origin, hostOp (.coreReset origin) s = .next (s.coreReset origin, .done)) ∧
    hostOp .memReset s = .next (s.memReset, .done) ∧
    (∀ origin image, hostOp (.load origin image) s = .next (s.load origin image, .done)) ∧
    (∀ a v, hostOp (.writeByte a v) s = .next (s.writeByte a v, .done)) ∧
    (∀ a w, hostOp (.writeWord a w) s = .next (s.writeWord a w, .done)) ∧
    (∀ a, a ≠ 0xFF#8 ∨ s.params.wordTopPolicy = .wrap → ∃ w : Word, hostOp (.readWord a) s = .next (s, .word w) ∧
      w.toNat = (s.readByte a).toNat * 256 + (s.readByte (a + 1)).toNat) ∧
    (s.params.wordTopPolicy = .fault →
      hostOp (.readWord 0xFF#8) s =
        .next ({ s with faultRecord := some { reason := .wordAccessAtTop, addr := 0xFF#8 } }, .noValue) ∧
      ∀ w, hostOp (.writeWord 0xFF#8 w) s =
        .next ({ s with faultRecord := some { reason := .wordAccessAtTop, addr := 0xFF#8 } }, .done)) ∧
    hostOp .readState s = .next (s, .state s)

/-- 20_memory.md rule R45; 70_reset_and_hazards.md rules R132 and R134; 45_control_flow.md rules R92 and R93;
42_stack.md rule R73. From every running state whose instruction at PC is PHA or PHP: the step completes with PC =
p+1, and the instruction run next is the one decoded from the bytes at p+1 and p+2 (modulo 256) with A, or P, in the
place of either that SP names. From every running state whose instruction is JSR v: the step completes with PC = v,
and the instruction run next is the one decoded from the bytes at v and v+1, where a byte of the call frame (P, A,
the saved PC, X, Y from SP on) stands in the place of what was there before. -/
def Obligations.PushedByteIsSeenByTheNextFetch : Prop :=
  ∀ s : State, s.active = true →
    (s.fetchInstr = .pha →
      ∃ t, step s = .next t ∧ t.pc = s.pc + 1 ∧
        RunsNext s.params.opcodeMap t (if s.pc + 1 = s.sp then s.a else s.readByte (s.pc + 1))
          (if s.pc + 2 = s.sp then s.a else s.readByte (s.pc + 2))) ∧
    (s.fetchInstr = .php →
      ∃ t, step s = .next t ∧ t.pc = s.pc + 1 ∧
        RunsNext s.params.opcodeMap t (if s.pc + 1 = s.sp then s.p else s.readByte (s.pc + 1))
          (if s.pc + 2 = s.sp then s.p else s.readByte (s.pc + 2))) ∧
    (∀ v, s.fetchInstr = .jsr v →
      ∃ t, step s = .next t ∧ t.pc = v ∧
        RunsNext s.params.opcodeMap t (s.frameByte v) (s.frameByte (v + 1)))
end

