-- ==== Sys2Proof/Laws/Decode.lean ====
section
/-! SUPPORT. The laws of the opcode map and of the lookup (R53, R54). -/

namespace Sys2Proof

theorem Mnemonic.mem_all (mn : Mnemonic) : mn ∈ Mnemonic.all := by cases mn <;> decide

theorem Mnemonic.index_injective {u v : Mnemonic} (h : u.index = v.index) : u = v := by
  have key : ∀ u ∈ Mnemonic.all, ∀ v ∈ Mnemonic.all, u.index = v.index → u = v := by decide
  exact key u u.mem_all v v.mem_all h

theorem OpcodeMap.code_mem (m : OpcodeMap) (mn : Mnemonic) : m.code mn ∈ m.codes.toList := by
  simp [OpcodeMap.code, Vector.get]

theorem OpcodeMap.code_ne_zero {m : OpcodeMap} (h : m.Legal) (mn : Mnemonic) : m.code mn ≠ 0x00#8 :=
  fun e => h.2 (e ▸ m.code_mem mn)

theorem OpcodeMap.code_injective {m : OpcodeMap} (h : m.Legal) {u v : Mnemonic} (e : m.code u = m.code v) : u = v := by
  apply Mnemonic.index_injective
  have hu : u.index.val < m.codes.toList.length := by simp
  have hv : v.index.val < m.codes.toList.length := by simp
  have e' : m.codes.toList[u.index.val] = m.codes.toList[v.index.val] := by
    simpa [OpcodeMap.code, Vector.get] using e
  exact Fin.ext ((List.Nodup.getElem_inj_iff h.1).mp e')

/-- Under a legal map a mnemonic's byte selects that mnemonic. -/
theorem OpcodeMap.lookup_code {m : OpcodeMap} (h : m.Legal) (mn : Mnemonic) : m.lookup (m.code mn) = some mn := by
  rw [OpcodeMap.lookup, if_neg (OpcodeMap.code_ne_zero h mn)]
  cases hf : Mnemonic.all.find? (fun k => decide (m.code k = m.code mn)) with
  | none => exact absurd (List.find?_eq_none.mp hf mn mn.mem_all) (by simp)
  | some k => exact congrArg some (OpcodeMap.code_injective h (by simpa using List.find?_some hf))

/-- The byte that selects a mnemonic is that mnemonic's, under any map. -/
theorem OpcodeMap.code_of_lookup {m : OpcodeMap} {op : Byte} {mn : Mnemonic} (h : m.lookup op = some mn) :
    m.code mn = op ∧ op ≠ 0x00#8 := by
  unfold OpcodeMap.lookup at h
  split at h
  · cases h
  · next hz => exact ⟨by simpa using List.find?_some h, hz⟩

/-- A byte selects no mnemonic exactly when it is 0x00 or unassigned. -/
theorem OpcodeMap.lookup_eq_none {m : OpcodeMap} {op : Byte} :
    m.lookup op = none ↔ op = 0x00#8 ∨ m.unassigned op = true := by
  unfold OpcodeMap.lookup OpcodeMap.unassigned
  by_cases h : op = 0x00#8
  · simp [h]
  · simp [h]

theorem OpcodeMap.lookup_unassigned {m : OpcodeMap} {op : Byte} (h : m.unassigned op = true) : m.lookup op = none :=
  OpcodeMap.lookup_eq_none.mpr (.inr h)

@[simp] theorem OpcodeMap.lookup_zero (m : OpcodeMap) : m.lookup 0x00#8 = none :=
  OpcodeMap.lookup_eq_none.mpr (.inl rfl)

/-! ## Decoding -/

theorem opcodeLength_eq_one_or_two (m : OpcodeMap) (op : Byte) : opcodeLength m op = 1 ∨ opcodeLength m op = 2 := by
  unfold opcodeLength
  split
  · split
    · exact .inr rfl
    · exact .inl rfl
  · exact .inl rfl

/-- The byte after a one-byte instruction does not matter to it. -/
theorem decodePair_of_length_one {m : OpcodeMap} {op : Byte} (h : opcodeLength m op = 1) (u v : Byte) :
    decodePair m op u = decodePair m op v := by
  unfold opcodeLength at h
  unfold decodePair
  cases hl : m.lookup op with
  | none => rfl
  | some mn => rw [hl] at h; cases mn <;> first | rfl | simp [Mnemonic.hasOperand] at h

theorem decode_length_one {m : OpcodeMap} {op : Byte} (h : opcodeLength m op = 1) (rest : List Byte) :
    decode m (op :: rest) = .ok (decodePair m op 0x00#8, rest) := by
  simp [decode, h]

theorem decode_length_two {m : OpcodeMap} {op : Byte} (h : opcodeLength m op = 2) (imm8 : Byte) (rest : List Byte) :
    decode m (op :: imm8 :: rest) = .ok (decodePair m op imm8, rest) := by
  simp [decode, h]

theorem decode_missing {m : OpcodeMap} {op : Byte} (h : opcodeLength m op = 2) :
    decode m [op] = .error .missingOperand := by
  simp [decode, h]

/-- What the decoder reads from an opcode byte and a byte after it is `decodePair` of the two. -/
theorem decode_fst {m : OpcodeMap} {op next : Byte} {rest rest' : List Byte} {i : Instr}
    (h : decode m (op :: rest) = .ok (i, rest')) (hn : ∀ b ∈ rest.head?, b = next) : i = decodePair m op next := by
  rcases opcodeLength_eq_one_or_two m op with h1 | h2
  · rw [decode_length_one h1] at h
    cases h
    exact decodePair_of_length_one h1 _ _
  · cases rest with
    | nil => rw [decode_missing h2] at h; cases h
    | cons imm8 r => rw [decode_length_two h2] at h; cases h; rw [hn imm8 rfl]

end Sys2Proof
end

