-- ==== Sys2Proof/Laws/Memory.lean ====
section
/-! SUPPORT. The laws of the memory: what a read gives after a write (for any list, canonical or not), and that every
memory operation keeps the canonical form. -/

namespace Sys2Proof.Machine

@[simp] theorem Memory.read_nil (addr : Byte) : Memory.read [] addr = 0x00#8 := rfl

theorem Memory.read_without (m : Memory) (addr b : Byte) :
    Memory.read (Memory.without m addr.toNat) b = if b = addr then 0x00#8 else Memory.read m b := by
  induction m with
  | nil => simp [Memory.without]
  | cons c cs ih =>
    simp only [Memory.without, ne_eq, decide_not] at ih ⊢
    by_cases hc : c.1 = addr.toNat
    · by_cases hb : b = addr
      · subst hb; simp [hc, ih]
      · have : addr.toNat ≠ b.toNat := fun h => hb (BitVec.eq_of_toNat_eq h.symm)
        simp [hc, ih, hb, Memory.read, this]
    · by_cases hb : b = addr
      · subst hb; simp [hc, ih, Memory.read]
      · simp [hc, ih, hb, Memory.read]

theorem Memory.read_place (c : Host.Cell) (m : Memory) (b : Byte) (h : ∀ d ∈ m, d.1 ≠ c.1) :
    Memory.read (Memory.place c m) b = if c.1 = b.toNat then c.2 else Memory.read m b := by
  induction m with
  | nil => simp [Memory.place, Memory.read]
  | cons d ds ih =>
    have hd : d.1 ≠ c.1 := h d (by simp)
    have ih := ih fun e he => h e (by simp [he])
    unfold Memory.place
    split
    · rfl
    · simp only [Memory.read, ih]
      by_cases hc : c.1 = b.toNat
      · simp [hc, show d.1 ≠ b.toNat from fun e => hd (e.trans hc.symm)]
      · simp [hc]

/-- A read after a write: the value written there, and every other byte as before. -/
theorem Memory.read_write (m : Memory) (addr v b : Byte) :
    (m.write addr v).read b = if b = addr then v else m.read b := by
  unfold Memory.write
  split
  · next h => rw [Memory.read_without, h]; rfl
  · rw [Memory.read_place _ _ _ (by simp [Memory.without]), Memory.read_without]
    by_cases hb : b = addr
    · simp [hb]
    · have : addr.toNat ≠ b.toNat := fun h => hb (BitVec.eq_of_toNat_eq h.symm)
      simp [hb, this]

@[simp] theorem Memory.read_write_same (m : Memory) (addr v : Byte) : (m.write addr v).read addr = v := by
  simp [Memory.read_write]

theorem Memory.read_write_other {addr b : Byte} (h : b ≠ addr) (m : Memory) (v : Byte) :
    (m.write addr v).read b = m.read b := by
  simp [Memory.read_write, h]

theorem Memory.wf_nil : Memory.wf [] := by simp [Memory.wf]

theorem Memory.wf_without {m : Memory} (h : m.wf) (n : Nat) : (m.without n).wf :=
  ⟨h.1.filter _, fun c hc => h.2 c (List.mem_filter.mp hc).1⟩

theorem Memory.mem_place {c d : Host.Cell} {m : Memory} : d ∈ Memory.place c m ↔ d = c ∨ d ∈ m := by
  induction m with
  | nil => simp [Memory.place]
  | cons e es ih =>
    unfold Memory.place
    split
    · simp
    · simp only [List.mem_cons, ih]; tauto

theorem Memory.wf_place {c : Host.Cell} {m : Memory} (h : m.wf) (hc : c.1 < 256 ∧ c.2 ≠ Memory.unlisted)
    (hn : ∀ d ∈ m, d.1 ≠ c.1) : (Memory.place c m).wf := by
  refine ⟨?_, fun d hd => (Memory.mem_place.mp hd).elim (fun e => e ▸ hc) (h.2 d)⟩
  obtain ⟨hs, -⟩ := h
  induction m with
  | nil => simp [Memory.place]
  | cons e es ih =>
    obtain ⟨he, hes⟩ := List.pairwise_cons.mp hs
    unfold Memory.place
    split
    · next hlt =>
      refine List.pairwise_cons.mpr ⟨fun d hd => ?_, hs⟩
      rcases List.mem_cons.mp hd with rfl | hd
      · exact hlt
      · exact hlt.trans (he d hd)
    · next hge =>
      have hce : e.1 < c.1 := by have := hn e (by simp); omega
      refine List.pairwise_cons.mpr ⟨fun d hd => ?_, ih (fun d hd => hn d (by simp [hd])) hes⟩
      rcases Memory.mem_place.mp hd with rfl | hd
      · exact hce
      · exact he d hd

/-- A byte write keeps the canonical form. -/
theorem Memory.wf_write {m : Memory} (h : m.wf) (addr v : Byte) : (m.write addr v).wf := by
  unfold Memory.write
  split
  · exact Memory.wf_without h _
  · next hv => exact Memory.wf_place (Memory.wf_without h _) ⟨addr.isLt, hv⟩ (by simp [Memory.without])

/-! ## Words (R8, R31, R32) -/

@[simp] theorem wordHigh_wordOf (hi lo : Byte) : wordHigh (wordOf hi lo) = hi := by
  unfold wordHigh wordOf
  ext i hi'
  simp only [BitVec.getElem_extractLsb', BitVec.getLsbD_append]
  simp [show ¬ (8 + i < 8) by omega, show 8 + i - 8 = i by omega, hi']

@[simp] theorem wordLow_wordOf (hi lo : Byte) : wordLow (wordOf hi lo) = lo := by
  unfold wordLow wordOf
  ext i hi'
  simp only [BitVec.getElem_extractLsb', BitVec.getLsbD_append]
  simp [hi']

@[simp] theorem wordOf_high_low (w : Word) : wordOf (wordHigh w) (wordLow w) = w := by
  unfold wordOf wordHigh wordLow
  ext i hi
  simp only [BitVec.getElem_append, BitVec.getElem_extractLsb']
  split
  · simp [BitVec.getLsbD_eq_getElem hi]
  · simp [show 8 + (i - 8) = i by omega, BitVec.getLsbD_eq_getElem hi]

theorem wordOf_toNat (hi lo : Byte) : (wordOf hi lo).toNat = hi.toNat * 256 + lo.toNat := by
  have := lo.isLt
  simp only [wordOf, BitVec.toNat_append]
  rw [← Nat.shiftLeft_add_eq_or_of_lt (by omega), Nat.shiftLeft_eq]

end Sys2Proof.Machine
end

