-- ==== Sys2Proof/Laws/State.lean ====
section
/-! SUPPORT. What each operation on the state does to each field, one lemma per field per update. -/

namespace Sys2Proof.Machine

variable (s : State)

@[simp] theorem State.writeByte_a (addr v : Byte) : (s.writeByte addr v).a = s.a := rfl
@[simp] theorem State.writeByte_x (addr v : Byte) : (s.writeByte addr v).x = s.x := rfl
@[simp] theorem State.writeByte_y (addr v : Byte) : (s.writeByte addr v).y = s.y := rfl
@[simp] theorem State.writeByte_p (addr v : Byte) : (s.writeByte addr v).p = s.p := rfl
@[simp] theorem State.writeByte_sp (addr v : Byte) : (s.writeByte addr v).sp = s.sp := rfl
@[simp] theorem State.writeByte_pc (addr v : Byte) : (s.writeByte addr v).pc = s.pc := rfl
@[simp] theorem State.writeByte_mem (addr v : Byte) : (s.writeByte addr v).mem = s.mem.write addr v := rfl
@[simp] theorem State.writeByte_out (addr v : Byte) : (s.writeByte addr v).out = s.out := rfl
@[simp] theorem State.writeByte_faultRecord (addr v : Byte) : (s.writeByte addr v).faultRecord = s.faultRecord := rfl
@[simp] theorem State.writeByte_params (addr v : Byte) : (s.writeByte addr v).params = s.params := rfl
@[simp] theorem State.writeByte_draws (addr v : Byte) : (s.writeByte addr v).draws = s.draws := rfl

@[simp] theorem State.push_a (v : Byte) : (s.push v).a = s.a := rfl
@[simp] theorem State.push_x (v : Byte) : (s.push v).x = s.x := rfl
@[simp] theorem State.push_y (v : Byte) : (s.push v).y = s.y := rfl
@[simp] theorem State.push_p (v : Byte) : (s.push v).p = s.p := rfl
@[simp] theorem State.push_sp (v : Byte) : (s.push v).sp = s.sp + 1 := rfl
@[simp] theorem State.push_pc (v : Byte) : (s.push v).pc = s.pc := rfl
@[simp] theorem State.push_mem (v : Byte) : (s.push v).mem = s.mem.write s.sp v := rfl
@[simp] theorem State.push_out (v : Byte) : (s.push v).out = s.out := rfl
@[simp] theorem State.push_faultRecord (v : Byte) : (s.push v).faultRecord = s.faultRecord := rfl
@[simp] theorem State.push_params (v : Byte) : (s.push v).params = s.params := rfl
@[simp] theorem State.push_draws (v : Byte) : (s.push v).draws = s.draws := rfl

@[simp] theorem State.pop_a : (s.pop.2).a = s.a := rfl
@[simp] theorem State.pop_x : (s.pop.2).x = s.x := rfl
@[simp] theorem State.pop_y : (s.pop.2).y = s.y := rfl
@[simp] theorem State.pop_p : (s.pop.2).p = s.p := rfl
@[simp] theorem State.pop_sp : (s.pop.2).sp = s.sp - 1 := rfl
@[simp] theorem State.pop_pc : (s.pop.2).pc = s.pc := rfl
@[simp] theorem State.pop_mem : (s.pop.2).mem = s.mem := rfl
@[simp] theorem State.pop_out : (s.pop.2).out = s.out := rfl
@[simp] theorem State.pop_faultRecord : (s.pop.2).faultRecord = s.faultRecord := rfl
@[simp] theorem State.pop_params : (s.pop.2).params = s.params := rfl
@[simp] theorem State.pop_draws : (s.pop.2).draws = s.draws := rfl

@[simp] theorem State.advance_a (n : Byte) : (s.advance n).a = s.a := rfl
@[simp] theorem State.advance_x (n : Byte) : (s.advance n).x = s.x := rfl
@[simp] theorem State.advance_y (n : Byte) : (s.advance n).y = s.y := rfl
@[simp] theorem State.advance_p (n : Byte) : (s.advance n).p = s.p := rfl
@[simp] theorem State.advance_sp (n : Byte) : (s.advance n).sp = s.sp := rfl
@[simp] theorem State.advance_pc (n : Byte) : (s.advance n).pc = s.pc + n := rfl
@[simp] theorem State.advance_mem (n : Byte) : (s.advance n).mem = s.mem := rfl
@[simp] theorem State.advance_out (n : Byte) : (s.advance n).out = s.out := rfl
@[simp] theorem State.advance_faultRecord (n : Byte) : (s.advance n).faultRecord = s.faultRecord := rfl
@[simp] theorem State.advance_params (n : Byte) : (s.advance n).params = s.params := rfl
@[simp] theorem State.advance_draws (n : Byte) : (s.advance n).draws = s.draws := rfl

@[simp] theorem State.jump_a (v : Byte) : (s.jump v).a = s.a := rfl
@[simp] theorem State.jump_x (v : Byte) : (s.jump v).x = s.x := rfl
@[simp] theorem State.jump_y (v : Byte) : (s.jump v).y = s.y := rfl
@[simp] theorem State.jump_p (v : Byte) : (s.jump v).p = s.p := rfl
@[simp] theorem State.jump_sp (v : Byte) : (s.jump v).sp = s.sp := rfl
@[simp] theorem State.jump_pc (v : Byte) : (s.jump v).pc = v := rfl
@[simp] theorem State.jump_mem (v : Byte) : (s.jump v).mem = s.mem := rfl
@[simp] theorem State.jump_out (v : Byte) : (s.jump v).out = s.out := rfl
@[simp] theorem State.jump_faultRecord (v : Byte) : (s.jump v).faultRecord = s.faultRecord := rfl
@[simp] theorem State.jump_params (v : Byte) : (s.jump v).params = s.params := rfl
@[simp] theorem State.jump_draws (v : Byte) : (s.jump v).draws = s.draws := rfl

@[simp] theorem State.emit_a (v : Byte) : (s.emit v).a = s.a := rfl
@[simp] theorem State.emit_x (v : Byte) : (s.emit v).x = s.x := rfl
@[simp] theorem State.emit_y (v : Byte) : (s.emit v).y = s.y := rfl
@[simp] theorem State.emit_p (v : Byte) : (s.emit v).p = s.p := rfl
@[simp] theorem State.emit_sp (v : Byte) : (s.emit v).sp = s.sp := rfl
@[simp] theorem State.emit_pc (v : Byte) : (s.emit v).pc = s.pc := rfl
@[simp] theorem State.emit_mem (v : Byte) : (s.emit v).mem = s.mem := rfl
@[simp] theorem State.emit_out (v : Byte) : (s.emit v).out = s.out ++ [v] := rfl
@[simp] theorem State.emit_faultRecord (v : Byte) : (s.emit v).faultRecord = s.faultRecord := rfl
@[simp] theorem State.emit_params (v : Byte) : (s.emit v).params = s.params := rfl
@[simp] theorem State.emit_draws (v : Byte) : (s.emit v).draws = s.draws := rfl

@[simp] theorem State.drawA_a : (s.drawA).a = Config.freeByte s.draws := rfl
@[simp] theorem State.drawA_x : (s.drawA).x = s.x := rfl
@[simp] theorem State.drawA_y : (s.drawA).y = s.y := rfl
@[simp] theorem State.drawA_p : (s.drawA).p = s.p := rfl
@[simp] theorem State.drawA_sp : (s.drawA).sp = s.sp := rfl
@[simp] theorem State.drawA_pc : (s.drawA).pc = s.pc := rfl
@[simp] theorem State.drawA_mem : (s.drawA).mem = s.mem := rfl
@[simp] theorem State.drawA_out : (s.drawA).out = s.out := rfl
@[simp] theorem State.drawA_faultRecord : (s.drawA).faultRecord = s.faultRecord := rfl
@[simp] theorem State.drawA_params : (s.drawA).params = s.params := rfl
@[simp] theorem State.drawA_draws : (s.drawA).draws = s.draws + 1 := rfl

@[simp] theorem State.compare_a (r : Reg) (v : Byte) : (s.compare r v).a = s.a := rfl
@[simp] theorem State.compare_x (r : Reg) (v : Byte) : (s.compare r v).x = s.x := rfl
@[simp] theorem State.compare_y (r : Reg) (v : Byte) : (s.compare r v).y = s.y := rfl
@[simp] theorem State.compare_p (r : Reg) (v : Byte) : (s.compare r v).p = compareFlags s.p (s.reg r) v := rfl
@[simp] theorem State.compare_sp (r : Reg) (v : Byte) : (s.compare r v).sp = s.sp := rfl
@[simp] theorem State.compare_pc (r : Reg) (v : Byte) : (s.compare r v).pc = s.pc := rfl
@[simp] theorem State.compare_mem (r : Reg) (v : Byte) : (s.compare r v).mem = s.mem := rfl
@[simp] theorem State.compare_out (r : Reg) (v : Byte) : (s.compare r v).out = s.out := rfl
@[simp] theorem State.compare_faultRecord (r : Reg) (v : Byte) : (s.compare r v).faultRecord = s.faultRecord := rfl
@[simp] theorem State.compare_params (r : Reg) (v : Byte) : (s.compare r v).params = s.params := rfl
@[simp] theorem State.compare_draws (r : Reg) (v : Byte) : (s.compare r v).draws = s.draws := rfl

@[simp] theorem State.branch_a (b : Bool) (v : Byte) : (s.branch b v).a = s.a := rfl
@[simp] theorem State.branch_x (b : Bool) (v : Byte) : (s.branch b v).x = s.x := rfl
@[simp] theorem State.branch_y (b : Bool) (v : Byte) : (s.branch b v).y = s.y := rfl
@[simp] theorem State.branch_p (b : Bool) (v : Byte) : (s.branch b v).p = clearEq s.p := rfl
@[simp] theorem State.branch_sp (b : Bool) (v : Byte) : (s.branch b v).sp = s.sp := rfl
@[simp] theorem State.branch_pc (b : Bool) (v : Byte) : (s.branch b v).pc = if b then v else s.pc := rfl
@[simp] theorem State.branch_mem (b : Bool) (v : Byte) : (s.branch b v).mem = s.mem := rfl
@[simp] theorem State.branch_out (b : Bool) (v : Byte) : (s.branch b v).out = s.out := rfl
@[simp] theorem State.branch_faultRecord (b : Bool) (v : Byte) : (s.branch b v).faultRecord = s.faultRecord := rfl
@[simp] theorem State.branch_params (b : Bool) (v : Byte) : (s.branch b v).params = s.params := rfl
@[simp] theorem State.branch_draws (b : Bool) (v : Byte) : (s.branch b v).draws = s.draws := rfl

@[simp] theorem State.recordFault_a (r : FaultRecord) : (s.recordFault r).a = s.a := rfl
@[simp] theorem State.recordFault_x (r : FaultRecord) : (s.recordFault r).x = s.x := rfl
@[simp] theorem State.recordFault_y (r : FaultRecord) : (s.recordFault r).y = s.y := rfl
@[simp] theorem State.recordFault_p (r : FaultRecord) : (s.recordFault r).p = s.p := rfl
@[simp] theorem State.recordFault_sp (r : FaultRecord) : (s.recordFault r).sp = s.sp := rfl
@[simp] theorem State.recordFault_pc (r : FaultRecord) : (s.recordFault r).pc = s.pc := rfl
@[simp] theorem State.recordFault_mem (r : FaultRecord) : (s.recordFault r).mem = s.mem := rfl
@[simp] theorem State.recordFault_out (r : FaultRecord) : (s.recordFault r).out = s.out := rfl
@[simp] theorem State.recordFault_faultRecord (r : FaultRecord) : (s.recordFault r).faultRecord = some (s.faultRecord.getD r) := rfl
@[simp] theorem State.recordFault_params (r : FaultRecord) : (s.recordFault r).params = s.params := rfl
@[simp] theorem State.recordFault_draws (r : FaultRecord) : (s.recordFault r).draws = s.draws := rfl

@[simp] theorem State.memReset_a : (s.memReset).a = s.a := rfl
@[simp] theorem State.memReset_x : (s.memReset).x = s.x := rfl
@[simp] theorem State.memReset_y : (s.memReset).y = s.y := rfl
@[simp] theorem State.memReset_p : (s.memReset).p = s.p := rfl
@[simp] theorem State.memReset_sp : (s.memReset).sp = s.sp := rfl
@[simp] theorem State.memReset_pc : (s.memReset).pc = s.pc := rfl
@[simp] theorem State.memReset_mem : (s.memReset).mem = [] := rfl
@[simp] theorem State.memReset_out : (s.memReset).out = s.out := rfl
@[simp] theorem State.memReset_faultRecord : (s.memReset).faultRecord = s.faultRecord := rfl
@[simp] theorem State.memReset_params : (s.memReset).params = s.params := rfl
@[simp] theorem State.memReset_draws : (s.memReset).draws = s.draws := rfl

@[simp] theorem State.coreReset_a (origin : Byte) : (s.coreReset origin).a = 0x00#8 := rfl
@[simp] theorem State.coreReset_x (origin : Byte) : (s.coreReset origin).x = 0x00#8 := rfl
@[simp] theorem State.coreReset_y (origin : Byte) : (s.coreReset origin).y = 0x00#8 := rfl
@[simp] theorem State.coreReset_p (origin : Byte) : (s.coreReset origin).p = 0x00#8 := rfl
@[simp] theorem State.coreReset_sp (origin : Byte) : (s.coreReset origin).sp = 0x00#8 := rfl
@[simp] theorem State.coreReset_pc (origin : Byte) : (s.coreReset origin).pc = origin := rfl
@[simp] theorem State.coreReset_mem (origin : Byte) : (s.coreReset origin).mem = s.mem := rfl
@[simp] theorem State.coreReset_out (origin : Byte) : (s.coreReset origin).out = [] := rfl
@[simp] theorem State.coreReset_faultRecord (origin : Byte) : (s.coreReset origin).faultRecord = s.faultRecord := rfl
@[simp] theorem State.coreReset_params (origin : Byte) : (s.coreReset origin).params = s.params := rfl
@[simp] theorem State.coreReset_draws (origin : Byte) : (s.coreReset origin).draws = s.draws := rfl

@[simp] theorem State.popFrame_a : (s.popFrame).a = s.a := rfl
@[simp] theorem State.popFrame_x : (s.popFrame).x = s.readByte (s.sp - 2) := by
  show s.readByte (s.sp - 1 - 1) = _; congr 1; bv_omega
@[simp] theorem State.popFrame_y : (s.popFrame).y = s.readByte (s.sp - 1) := rfl
@[simp] theorem State.popFrame_p : (s.popFrame).p = s.readByte (s.sp - 5) := by
  show s.readByte (s.sp - 1 - 1 - 1 - 1 - 1) = _; congr 1; bv_omega
@[simp] theorem State.popFrame_sp : (s.popFrame).sp = s.sp - 5 := by
  show s.sp - 1 - 1 - 1 - 1 - 1 = _; bv_omega
@[simp] theorem State.popFrame_pc : (s.popFrame).pc = s.readByte (s.sp - 3) := by
  show s.readByte (s.sp - 1 - 1 - 1) = _; congr 1; bv_omega
@[simp] theorem State.popFrame_mem : (s.popFrame).mem = s.mem := rfl
@[simp] theorem State.popFrame_out : (s.popFrame).out = s.out := rfl
@[simp] theorem State.popFrame_faultRecord : (s.popFrame).faultRecord = s.faultRecord := rfl
@[simp] theorem State.popFrame_params : (s.popFrame).params = s.params := rfl
@[simp] theorem State.popFrame_draws : (s.popFrame).draws = s.draws := rfl

@[simp] theorem State.pushFrame_a (ret : Byte) : (s.pushFrame ret).a = s.a := by simp [State.pushFrame]
@[simp] theorem State.pushFrame_x (ret : Byte) : (s.pushFrame ret).x = s.x := by simp [State.pushFrame]
@[simp] theorem State.pushFrame_y (ret : Byte) : (s.pushFrame ret).y = s.y := by simp [State.pushFrame]
@[simp] theorem State.pushFrame_p (ret : Byte) : (s.pushFrame ret).p = s.p := by simp [State.pushFrame]
@[simp] theorem State.pushFrame_sp (ret : Byte) : (s.pushFrame ret).sp = s.sp + 5 := by
  simp only [State.pushFrame, State.push_sp]; bv_omega
@[simp] theorem State.pushFrame_pc (ret : Byte) : (s.pushFrame ret).pc = s.pc := by simp [State.pushFrame]
@[simp] theorem State.pushFrame_mem (ret : Byte) : (s.pushFrame ret).mem = ((((s.mem.write s.sp s.p).write (s.sp + 1) s.a).write (s.sp + 1 + 1) ret).write (s.sp + 1 + 1 + 1) s.x).write (s.sp + 1 + 1 + 1 + 1) s.y := by simp [State.pushFrame]
@[simp] theorem State.pushFrame_out (ret : Byte) : (s.pushFrame ret).out = s.out := by simp [State.pushFrame]
@[simp] theorem State.pushFrame_faultRecord (ret : Byte) : (s.pushFrame ret).faultRecord = s.faultRecord := by simp [State.pushFrame]
@[simp] theorem State.pushFrame_params (ret : Byte) : (s.pushFrame ret).params = s.params := by simp [State.pushFrame]
@[simp] theorem State.pushFrame_draws (ret : Byte) : (s.pushFrame ret).draws = s.draws := by simp [State.pushFrame]

@[simp] theorem State.setReg_a_a (v : Byte) : (s.setReg .a v).a = v := rfl
@[simp] theorem State.setReg_a_x (v : Byte) : (s.setReg .a v).x = s.x := rfl
@[simp] theorem State.setReg_a_y (v : Byte) : (s.setReg .a v).y = s.y := rfl
@[simp] theorem State.setReg_a_p (v : Byte) : (s.setReg .a v).p = s.p := rfl
@[simp] theorem State.setReg_a_sp (v : Byte) : (s.setReg .a v).sp = s.sp := rfl
@[simp] theorem State.setReg_a_pc (v : Byte) : (s.setReg .a v).pc = s.pc := rfl
@[simp] theorem State.setReg_a_mem (v : Byte) : (s.setReg .a v).mem = s.mem := rfl
@[simp] theorem State.setReg_a_out (v : Byte) : (s.setReg .a v).out = s.out := rfl
@[simp] theorem State.setReg_a_faultRecord (v : Byte) : (s.setReg .a v).faultRecord = s.faultRecord := rfl
@[simp] theorem State.setReg_a_params (v : Byte) : (s.setReg .a v).params = s.params := rfl
@[simp] theorem State.setReg_a_draws (v : Byte) : (s.setReg .a v).draws = s.draws := rfl

@[simp] theorem State.setReg_x_a (v : Byte) : (s.setReg .x v).a = s.a := rfl
@[simp] theorem State.setReg_x_x (v : Byte) : (s.setReg .x v).x = v := rfl
@[simp] theorem State.setReg_x_y (v : Byte) : (s.setReg .x v).y = s.y := rfl
@[simp] theorem State.setReg_x_p (v : Byte) : (s.setReg .x v).p = s.p := rfl
@[simp] theorem State.setReg_x_sp (v : Byte) : (s.setReg .x v).sp = s.sp := rfl
@[simp] theorem State.setReg_x_pc (v : Byte) : (s.setReg .x v).pc = s.pc := rfl
@[simp] theorem State.setReg_x_mem (v : Byte) : (s.setReg .x v).mem = s.mem := rfl
@[simp] theorem State.setReg_x_out (v : Byte) : (s.setReg .x v).out = s.out := rfl
@[simp] theorem State.setReg_x_faultRecord (v : Byte) : (s.setReg .x v).faultRecord = s.faultRecord := rfl
@[simp] theorem State.setReg_x_params (v : Byte) : (s.setReg .x v).params = s.params := rfl
@[simp] theorem State.setReg_x_draws (v : Byte) : (s.setReg .x v).draws = s.draws := rfl

@[simp] theorem State.setReg_y_a (v : Byte) : (s.setReg .y v).a = s.a := rfl
@[simp] theorem State.setReg_y_x (v : Byte) : (s.setReg .y v).x = s.x := rfl
@[simp] theorem State.setReg_y_y (v : Byte) : (s.setReg .y v).y = v := rfl
@[simp] theorem State.setReg_y_p (v : Byte) : (s.setReg .y v).p = s.p := rfl
@[simp] theorem State.setReg_y_sp (v : Byte) : (s.setReg .y v).sp = s.sp := rfl
@[simp] theorem State.setReg_y_pc (v : Byte) : (s.setReg .y v).pc = s.pc := rfl
@[simp] theorem State.setReg_y_mem (v : Byte) : (s.setReg .y v).mem = s.mem := rfl
@[simp] theorem State.setReg_y_out (v : Byte) : (s.setReg .y v).out = s.out := rfl
@[simp] theorem State.setReg_y_faultRecord (v : Byte) : (s.setReg .y v).faultRecord = s.faultRecord := rfl
@[simp] theorem State.setReg_y_params (v : Byte) : (s.setReg .y v).params = s.params := rfl
@[simp] theorem State.setReg_y_draws (v : Byte) : (s.setReg .y v).draws = s.draws := rfl

@[simp] theorem State.setReg_p_a (v : Byte) : (s.setReg .p v).a = s.a := rfl
@[simp] theorem State.setReg_p_x (v : Byte) : (s.setReg .p v).x = s.x := rfl
@[simp] theorem State.setReg_p_y (v : Byte) : (s.setReg .p v).y = s.y := rfl
@[simp] theorem State.setReg_p_p (v : Byte) : (s.setReg .p v).p = v := rfl
@[simp] theorem State.setReg_p_sp (v : Byte) : (s.setReg .p v).sp = s.sp := rfl
@[simp] theorem State.setReg_p_pc (v : Byte) : (s.setReg .p v).pc = s.pc := rfl
@[simp] theorem State.setReg_p_mem (v : Byte) : (s.setReg .p v).mem = s.mem := rfl
@[simp] theorem State.setReg_p_out (v : Byte) : (s.setReg .p v).out = s.out := rfl
@[simp] theorem State.setReg_p_faultRecord (v : Byte) : (s.setReg .p v).faultRecord = s.faultRecord := rfl
@[simp] theorem State.setReg_p_params (v : Byte) : (s.setReg .p v).params = s.params := rfl
@[simp] theorem State.setReg_p_draws (v : Byte) : (s.setReg .p v).draws = s.draws := rfl

@[simp] theorem State.setReg_sp_a (v : Byte) : (s.setReg .sp v).a = s.a := rfl
@[simp] theorem State.setReg_sp_x (v : Byte) : (s.setReg .sp v).x = s.x := rfl
@[simp] theorem State.setReg_sp_y (v : Byte) : (s.setReg .sp v).y = s.y := rfl
@[simp] theorem State.setReg_sp_p (v : Byte) : (s.setReg .sp v).p = s.p := rfl
@[simp] theorem State.setReg_sp_sp (v : Byte) : (s.setReg .sp v).sp = v := rfl
@[simp] theorem State.setReg_sp_pc (v : Byte) : (s.setReg .sp v).pc = s.pc := rfl
@[simp] theorem State.setReg_sp_mem (v : Byte) : (s.setReg .sp v).mem = s.mem := rfl
@[simp] theorem State.setReg_sp_out (v : Byte) : (s.setReg .sp v).out = s.out := rfl
@[simp] theorem State.setReg_sp_faultRecord (v : Byte) : (s.setReg .sp v).faultRecord = s.faultRecord := rfl
@[simp] theorem State.setReg_sp_params (v : Byte) : (s.setReg .sp v).params = s.params := rfl
@[simp] theorem State.setReg_sp_draws (v : Byte) : (s.setReg .sp v).draws = s.draws := rfl

@[simp] theorem State.reg_a : s.reg .a = s.a := rfl
@[simp] theorem State.reg_x : s.reg .x = s.x := rfl
@[simp] theorem State.reg_y : s.reg .y = s.y := rfl
@[simp] theorem State.reg_p : s.reg .p = s.p := rfl
@[simp] theorem State.reg_sp : s.reg .sp = s.sp := rfl

@[simp] theorem State.pop_value : s.pop.1 = s.readByte (s.sp - 1) := rfl

end Sys2Proof.Machine
end

