-- ==== Sys2Proof/Laws/Ops.lean ====
section
/-! SUPPORT. What each shared operation does to the bytes of memory and to the flag: cited instead of unfolding it. -/

namespace Sys2Proof.Machine

/-! ## Bytes of memory -/

theorem State.readByte_eq (s : State) (b : Byte) : s.readByte b = s.mem.read b := rfl

theorem State.readByte_writeByte (s : State) (addr v b : Byte) :
    (s.writeByte addr v).readByte b = if b = addr then v else s.readByte b :=
  Memory.read_write ..

/-- Push writes the byte at SP and no other. -/
theorem State.readByte_push (s : State) (v b : Byte) :
    (s.push v).readByte b = if b = s.sp then v else s.readByte b :=
  Memory.read_write ..

@[simp] theorem State.readByte_advance (s : State) (n b : Byte) : (s.advance n).readByte b = s.readByte b := rfl

@[simp] theorem State.readByte_jump (s : State) (v b : Byte) : (s.jump v).readByte b = s.readByte b := rfl

@[simp] theorem State.readByte_emit (s : State) (v b : Byte) : (s.emit v).readByte b = s.readByte b := rfl

@[simp] theorem State.readByte_drawA (s : State) (b : Byte) : s.drawA.readByte b = s.readByte b := rfl

@[simp] theorem State.readByte_setReg (s : State) (r : Reg) (v b : Byte) :
    (s.setReg r v).readByte b = s.readByte b := by
  cases r <;> rfl

/-- The call frame puts P, A, the return address, X and Y at five consecutive addresses from SP and writes no other
byte (R92). -/
theorem State.readByte_pushFrame (s : State) (ret b : Byte) :
    (s.pushFrame ret).readByte b =
      if b = s.sp then s.p else if b = s.sp + 1 then s.a else if b = s.sp + 2 then ret
      else if b = s.sp + 3 then s.x else if b = s.sp + 4 then s.y else s.readByte b := by
  have h2 : s.sp + 1 + 1 = s.sp + 2 := by bv_omega
  have h3 : s.sp + 2 + 1 = s.sp + 3 := by bv_omega
  have h4 : s.sp + 3 + 1 = s.sp + 4 := by bv_omega
  simp only [State.pushFrame, State.readByte_push, State.push_sp, h2, h3, h4]
  split_ifs <;> first | rfl | (exfalso; bv_omega)

/-- Two fetches (R52) move PC as a two-byte instruction's meaning does (R21). -/
theorem State.fetch_twice (s : State) : s.fetch.2.fetch.2 = s.advance 2 := by
  simp only [State.fetch, State.advance, State.mk.injEq, true_and, and_true]
  bv_omega

theorem State.wf_writeByte {s : State} (h : s.mem.wf) (addr v : Byte) : (s.writeByte addr v).mem.wf :=
  Memory.wf_write h addr v

/-- Load changes memory alone. -/
theorem State.load_regs (image : List Byte) : ∀ (s : State) (origin : Byte),
    s.load origin image = { s with mem := (s.load origin image).mem } := by
  induction image with
  | nil => intro s origin; rfl
  | cons b bs ih => intro s origin; rw [State.load, ih]; rfl

theorem State.wf_load (image : List Byte) : ∀ (s : State) (origin : Byte), s.mem.wf → (s.load origin image).mem.wf := by
  induction image with
  | nil => intro s origin h; exact h
  | cons b bs ih => intro s origin h; exact ih _ _ (Memory.wf_write h origin b)

/-! ## The flag -/

theorem getLsbD_setEq (p : Byte) (k : Nat) : (setEq p).getLsbD k = (p.getLsbD k || decide (k = 1)) := by
  rcases Nat.lt_or_ge k 8 with h | h
  · interval_cases k <;> simp [setEq]
  · simp [setEq, BitVec.getLsbD_of_ge _ _ h, show k ≠ 1 by omega]

theorem getLsbD_clearEq (p : Byte) (k : Nat) : (clearEq p).getLsbD k = (p.getLsbD k && decide (k ≠ 1)) := by
  rcases Nat.lt_or_ge k 8 with h | h
  · interval_cases k <;> simp [clearEq]
  · simp [clearEq, BitVec.getLsbD_of_ge _ _ h]

/-- A compare sets EQ on equality and changes no other bit, and never clears EQ. -/
theorem getLsbD_compareFlags (p u v : Byte) (k : Nat) :
    (compareFlags p u v).getLsbD k = (p.getLsbD k || (decide (k = 1) && decide (u = v))) := by
  unfold compareFlags aluEq
  by_cases h : u = v <;> simp [h, getLsbD_setEq]

@[simp] theorem eqFlag_setEq (p : Byte) : eqFlag (setEq p) = true := by
  rw [eqFlag, getLsbD_setEq]; simp

@[simp] theorem eqFlag_clearEq (p : Byte) : eqFlag (clearEq p) = false := by
  rw [eqFlag, getLsbD_clearEq]; simp

end Sys2Proof.Machine
end

