-- ==== Sys2Proof/Laws/Step.lean ====
section
/-! SUPPORT. What a step can do, said once. -/

namespace Sys2Proof.Machine

theorem State.active_iff {s : State} : s.active = true ↔ s.faultRecord = none ∧ s.pc ≠ haltSentinel := by
  simp [State.active, State.halted]

theorem step_active {s : State} (h : s.active = true) : step s = exec s.fetchInstr s := by
  obtain ⟨hf, hp⟩ := State.active_iff.mp h
  simp [step, hf, State.halted, hp]

theorem step_faulted {s : State} {r : FaultRecord} (h : s.faultRecord = some r) : step s = .fault (.blockFaulted r) := by
  simp [step, h]

/-- A step that answers a next state either runs the instruction at PC or leaves the halted core as it is. -/
theorem step_cases {s t : State} (h : step s = .next t) :
    (s.active = true ∧ exec s.fetchInstr s = .next t) ∨ (s.faultRecord = none ∧ s.pc = haltSentinel ∧ t = s) := by
  cases hf : s.faultRecord with
  | some r => rw [step_faulted hf] at h; cases h
  | none =>
    by_cases hp : s.pc = haltSentinel
    · right
      have : step s = .next s := by simp [step, hf, State.halted, hp]
      exact ⟨rfl, hp, by rw [this] at h; cases h; rfl⟩
    · have ha := State.active_iff.mpr ⟨hf, hp⟩
      exact .inl ⟨ha, by rwa [step_active ha] at h⟩

/-- The instruction at PC is read from the bytes at PC and after it. -/
theorem State.fetchInstr_eq (s : State) :
    s.fetchInstr = decodePair s.params.opcodeMap (s.readByte s.pc) (s.readByte (s.pc + 1)) := rfl

/-- What the block runs next, from the two bytes at PC. -/
theorem runsNext_of {m : OpcodeMap} {t : State} {op next : Byte} (hf : t.faultRecord = none)
    (hm : t.params.opcodeMap = m) (h0 : t.readByte t.pc = op) (h1 : t.readByte (t.pc + 1) = next) :
    RunsNext m t op next := by
  have hi : t.fetchInstr = decodePair m op next := by rw [State.fetchInstr_eq, hm, h0, h1]
  exact ⟨hi, fun hp => by rw [step_active (State.active_iff.mpr ⟨hf, hp⟩), hi]⟩

/-- The step-level clause of a rule follows from its bytes and its effect on every state. -/
theorem executes_of {bytes : List Byte} {i : Instr} {post : State → State → Prop} (he : EncodedAs bytes i)
    (hc : ∀ s, Completes i s (post s)) : Executes bytes i post := by
  refine ⟨he, hc, fun s hf hp hm hb => ?_⟩
  have hstep : step s = exec s.fetchInstr s := step_active (State.active_iff.mpr ⟨hf, hp⟩)
  have hi : s.fetchInstr = i := by
    have hd := he.2 []
    rw [State.fetchInstr_eq, hm]
    match bytes, hd, hb with
    | [], hd, _ => simp [decode] at hd
    | [b], hd, hb => rw [hb.1]; exact (decode_fst hd (by simp)).symm
    | b :: v :: rest, hd, hb => rw [hb.1, hb.2.1]; exact (decode_fst hd (by simp)).symm
  rw [hstep, hi]
  exact hc s

end Sys2Proof.Machine
end

