-- ==== Sys2Proof/Laws/Host.lean ====
section
/-! SUPPORT. What a host operation, a call frame and a frame come to, said once. -/

namespace Sys2Proof.Machine

/-- On a block without a fault record a host operation completes with its effect. -/
theorem hostOp_of_no_record {s : State} (h : s.faultRecord = none) (op : HostOp) :
    hostOp op s = .next (hostEffect op s) := by
  simp [hostOp, h]

/-- A word access faults only at address 255 and only under `FAULT` (R33). -/
theorem State.wordFaults_eq_true {s : State} {addr : Byte} :
    s.wordFaults addr = true ↔ addr = 0xFF#8 ∧ s.params.wordTopPolicy = .fault := by
  simp [State.wordFaults]

/-- The bytes of memory after JSR has pushed its call frame (R92, R93), whatever `JSR_SAVED_PC` is. -/
theorem State.readByte_callFrame (s : State) (b : Byte) : (s.pushFrame s.returnAddress).readByte b = s.frameByte b := by
  rw [State.readByte_pushFrame]
  unfold State.frameByte State.returnAddress
  cases s.params.jsrSavedPc <;> rfl

/-- A frame from one fact per field, with memory compared as data. -/
theorem Frame.of_fields {c : List Field} {s t : State} (ha : Field.a ∈ c ∨ t.a = s.a) (hx : Field.x ∈ c ∨ t.x = s.x)
    (hy : Field.y ∈ c ∨ t.y = s.y) (hp : Field.p ∈ c ∨ t.p = s.p) (hsp : Field.sp ∈ c ∨ t.sp = s.sp)
    (hpc : Field.pc ∈ c ∨ t.pc = s.pc) (hm : Field.mem ∈ c ∨ t.mem = s.mem) (ho : Field.out ∈ c ∨ t.out = s.out)
    (hd : Field.draws ∈ c ∨ t.draws = s.draws) (hf : t.faultRecord = s.faultRecord) (hps : t.params = s.params) :
    Frame c s t where
  a := ha.resolve_left
  x := hx.resolve_left
  y := hy.resolve_left
  p := hp.resolve_left
  sp := hsp.resolve_left
  pc := hpc.resolve_left
  mem h b := by rw [State.readByte_eq, State.readByte_eq, hm.resolve_left h]
  out := ho.resolve_left
  draws := hd.resolve_left
  faultRecord := hf
  params := hps

end Sys2Proof.Machine
end

