-- ==== Sys2Proof/Laws/PerInstr.lean ====
section
/-! SUPPORT. Facts about every instruction as syntax, one lemma per constructor. EncodedLength: an instruction's encoding
has the instruction's length, which is one byte or two (R48, R57). -/

namespace Sys2Proof.Laws.EncodedLength

/-- The encoding under any map has the instruction's length, and that is 1 or 2. -/
def Statement (i : Instr) : Prop :=
  (∀ m : OpcodeMap, (encode m i).length = i.length) ∧ (i.length = 1 ∨ i.length = 2)

theorem lda (imm8 : Byte) : Statement (.lda imm8) := ⟨fun _ => rfl, .inr rfl⟩
theorem ldx (imm8 : Byte) : Statement (.ldx imm8) := ⟨fun _ => rfl, .inr rfl⟩
theorem ldy (imm8 : Byte) : Statement (.ldy imm8) := ⟨fun _ => rfl, .inr rfl⟩
theorem sta (imm8 : Byte) : Statement (.sta imm8) := ⟨fun _ => rfl, .inr rfl⟩
theorem stx (imm8 : Byte) : Statement (.stx imm8) := ⟨fun _ => rfl, .inr rfl⟩
theorem sty (imm8 : Byte) : Statement (.sty imm8) := ⟨fun _ => rfl, .inr rfl⟩
theorem txa : Statement .txa := ⟨fun _ => rfl, .inl rfl⟩
theorem tya : Statement .tya := ⟨fun _ => rfl, .inl rfl⟩
theorem tax : Statement .tax := ⟨fun _ => rfl, .inl rfl⟩
theorem tay : Statement .tay := ⟨fun _ => rfl, .inl rfl⟩
theorem tsx : Statement .tsx := ⟨fun _ => rfl, .inl rfl⟩
theorem txs : Statement .txs := ⟨fun _ => rfl, .inl rfl⟩
theorem pha : Statement .pha := ⟨fun _ => rfl, .inl rfl⟩
theorem php : Statement .php := ⟨fun _ => rfl, .inl rfl⟩
theorem pla : Statement .pla := ⟨fun _ => rfl, .inl rfl⟩
theorem plp : Statement .plp := ⟨fun _ => rfl, .inl rfl⟩
theorem dec : Statement .dec := ⟨fun _ => rfl, .inl rfl⟩
theorem dex : Statement .dex := ⟨fun _ => rfl, .inl rfl⟩
theorem dey : Statement .dey := ⟨fun _ => rfl, .inl rfl⟩
theorem inc : Statement .inc := ⟨fun _ => rfl, .inl rfl⟩
theorem inx : Statement .inx := ⟨fun _ => rfl, .inl rfl⟩
theorem iny : Statement .iny := ⟨fun _ => rfl, .inl rfl⟩
theorem cmp (imm8 : Byte) : Statement (.cmp imm8) := ⟨fun _ => rfl, .inr rfl⟩
theorem cmx (imm8 : Byte) : Statement (.cmx imm8) := ⟨fun _ => rfl, .inr rfl⟩
theorem cmy (imm8 : Byte) : Statement (.cmy imm8) := ⟨fun _ => rfl, .inr rfl⟩
theorem beq (imm8 : Byte) : Statement (.beq imm8) := ⟨fun _ => rfl, .inr rfl⟩
theorem bne (imm8 : Byte) : Statement (.bne imm8) := ⟨fun _ => rfl, .inr rfl⟩
theorem jmp (imm8 : Byte) : Statement (.jmp imm8) := ⟨fun _ => rfl, .inr rfl⟩
theorem jsr (imm8 : Byte) : Statement (.jsr imm8) := ⟨fun _ => rfl, .inr rfl⟩
theorem rts : Statement .rts := ⟨fun _ => rfl, .inl rfl⟩
theorem oua : Statement .oua := ⟨fun _ => rfl, .inl rfl⟩
theorem hlt : Statement .hlt := ⟨fun _ => rfl, .inl rfl⟩
theorem apa : Statement .apa := ⟨fun _ => rfl, .inl rfl⟩
theorem apx : Statement .apx := ⟨fun _ => rfl, .inl rfl⟩
theorem apy : Statement .apy := ⟨fun _ => rfl, .inl rfl⟩
theorem ada (imm8 : Byte) : Statement (.ada imm8) := ⟨fun _ => rfl, .inr rfl⟩
theorem adx (imm8 : Byte) : Statement (.adx imm8) := ⟨fun _ => rfl, .inr rfl⟩
theorem ady (imm8 : Byte) : Statement (.ady imm8) := ⟨fun _ => rfl, .inr rfl⟩
theorem nopZero : Statement .nopZero := ⟨fun _ => rfl, .inl rfl⟩
theorem nopUnassigned (opcode : Byte) : Statement (.nopUnassigned opcode) := ⟨fun _ => rfl, .inl rfl⟩

end Sys2Proof.Laws.EncodedLength
end

