-- ==== Sys2Proof/Tests/Slice0.lean ====
section
/-! SUPPORT. The model's own tests: the well-formedness checks refuse what they must, words written out from the spec's
encodings (30_encoding.md R55 and spec/opcode_table.json, bit 0 the least significant bit of the first byte) decode to
the instruction they stand for, single steps give the results of the spec's vectors (95_test_vectors.md, the id is in the
test's name), and every statement with hypotheses has a witness that meets them. -/

namespace Sys2Proof.Tests

open Sys2Proof Sys2Proof.Machine

/-- A block just created, with bytes placed at its PC. -/
def ready (pc : Byte) (bytes : List Byte) : State := (State.create Defaults.params pc).load pc bytes

/-- Some fields of the state after one step. -/
def after {α : Type} (s : State) (f : State → α) : Option α :=
  match step s with
  | .next u => some (f u)
  | .fault _ => none
  | .refused _ => none

/-! ## Well-formedness and opcode maps -/

theorem test_wf_refuses_zero_as_unassigned : Instr.wellFormed OpcodeMap.reference (.nopUnassigned 0x00) = false := by decide
theorem test_wf_refuses_a_mapped_byte : Instr.wellFormed OpcodeMap.reference (.nopUnassigned 0x26) = false := by decide
theorem test_wf_accepts_an_unmapped_byte : Instr.wellFormed OpcodeMap.reference (.nopUnassigned 0x27) = true := by decide
theorem test_reference_is_legal : OpcodeMap.reference.Legal := by decide

/-- A map that breaks R54 by giving LDA the byte 0x00. -/
def mapWithZero : OpcodeMap := { codes := OpcodeMap.reference.codes.set 0 0x00 }

/-- A map that breaks R54 by giving LDA and LDX the same byte. -/
def mapWithClash : OpcodeMap := { codes := OpcodeMap.reference.codes.set 0 0x02 }

/-- A legal map other than the reference: LDA is 0xA9. -/
def otherMap : OpcodeMap := { codes := OpcodeMap.reference.codes.set 0 0xA9 }

theorem test_map_with_zero_is_refused : ¬ mapWithZero.Legal := by decide
theorem test_map_with_clash_is_refused : ¬ mapWithClash.Legal := by decide
theorem test_other_map_decodes_its_own_bytes :
    otherMap.Legal ∧ decode otherMap [0xA9, 0x05] = .ok (.lda 0x05, []) ∧
      decode otherMap [0x01, 0x05] = .ok (.nopUnassigned 0x01, [0x05]) := by decide
theorem test_decode_rejects_no_bytes : decode OpcodeMap.reference [] = .error .noOpcode := by decide
theorem test_decode_rejects_a_missing_operand : decode OpcodeMap.reference [0x01] = .error .missingOperand := by decide

/-! ## Words written out bit by bit (operand byte first, opcode byte last: the table numbers bits so) -/

theorem test_decode_loads_and_stores :
    decodeTableWord 16 0b10100101_00000001 = some (.lda 0b10100101) ∧
    decodeTableWord 16 0b10100101_00000010 = some (.ldx 0b10100101) ∧
    decodeTableWord 16 0b10100101_00000011 = some (.ldy 0b10100101) ∧
    decodeTableWord 16 0b10100101_00000100 = some (.sta 0b10100101) ∧
    decodeTableWord 16 0b10100101_00000101 = some (.stx 0b10100101) ∧
    decodeTableWord 16 0b10100101_00000110 = some (.sty 0b10100101) := by decide

theorem test_decode_transfers :
    decodeTableWord 8 0b00000111 = some .txa ∧
    decodeTableWord 8 0b00001000 = some .tya ∧
    decodeTableWord 8 0b00001001 = some .tax ∧
    decodeTableWord 8 0b00001010 = some .tay ∧
    decodeTableWord 8 0b00001011 = some .tsx ∧
    decodeTableWord 8 0b00001100 = some .txs := by decide

theorem test_decode_stack :
    decodeTableWord 8 0b00001101 = some .pha ∧
    decodeTableWord 8 0b00001110 = some .php ∧
    decodeTableWord 8 0b00001111 = some .pla ∧
    decodeTableWord 8 0b00010000 = some .plp := by decide

theorem test_decode_inc_dec :
    decodeTableWord 8 0b00010001 = some .dec ∧
    decodeTableWord 8 0b00010010 = some .dex ∧
    decodeTableWord 8 0b00010011 = some .dey ∧
    decodeTableWord 8 0b00010100 = some .inc ∧
    decodeTableWord 8 0b00010101 = some .inx ∧
    decodeTableWord 8 0b00010110 = some .iny := by decide

theorem test_decode_compares :
    decodeTableWord 16 0b10100101_00010111 = some (.cmp 0b10100101) ∧
    decodeTableWord 16 0b10100101_00011000 = some (.cmx 0b10100101) ∧
    decodeTableWord 16 0b10100101_00011001 = some (.cmy 0b10100101) := by decide

theorem test_decode_control :
    decodeTableWord 16 0b10100101_00011010 = some (.beq 0b10100101) ∧
    decodeTableWord 16 0b10100101_00011011 = some (.bne 0b10100101) ∧
    decodeTableWord 16 0b10100101_00011100 = some (.jmp 0b10100101) ∧
    decodeTableWord 16 0b10100101_00011101 = some (.jsr 0b10100101) ∧
    decodeTableWord 8 0b00011110 = some .rts := by decide

theorem test_decode_output_halt :
    decodeTableWord 8 0b00011111 = some .oua ∧
    decodeTableWord 8 0b00100000 = some .hlt := by decide

theorem test_decode_adds :
    decodeTableWord 8 0b00100001 = some .apa ∧
    decodeTableWord 8 0b00100010 = some .apx ∧
    decodeTableWord 8 0b00100011 = some .apy ∧
    decodeTableWord 16 0b10100101_00100100 = some (.ada 0b10100101) ∧
    decodeTableWord 16 0b10100101_00100101 = some (.adx 0b10100101) ∧
    decodeTableWord 16 0b10100101_00100110 = some (.ady 0b10100101) := by decide

theorem test_decode_noops :
    decodeTableWord 8 0b00000000 = some .nopZero ∧ decodeTableWord 8 0b00100111 = some (.nopUnassigned 0b00100111) ∧
    decodeTableWord 8 0b11111111 = some (.nopUnassigned 0b11111111) := by decide

/-- The bits above `nbits` are 0: an operand the table gives no bits reads as 0. -/
theorem test_decode_without_operand_bits : decodeTableWord 8 0b00000001 = some (.lda 0) := by decide

/-! ## Single steps: the vectors of 95_test_vectors.md -/

theorem test_LS1_lda_writes_no_flag :
    after { ready 0x10 [0x01, 0x00] with a := 0x55, p := 0x02 } (fun u => (u.a, u.p, u.pc)) = some (0x00, 0x02, 0x12) := by decide

theorem test_LS2_ldx_leaves_sp :
    after (ready 0x10 [0x02, 0xFF]) (fun u => (u.x, u.sp, u.pc)) = some (0xFF, 0x00, 0x12) := by decide

theorem test_LS3_ldy_at_the_top_wraps :
    after (ready 0xFE [0x03, 0x44]) (fun u => (u.y, u.pc, u.halted)) = some (0x44, 0x00, false) := by decide

theorem test_LS4_sta_to_255 :
    after { ready 0x10 [0x04, 0xFF] with a := 0x12 } (fun u => (u.readByte 0xFF, u.pc)) = some (0x12, 0x12) := by decide

theorem test_LS5_stx_over_its_own_operand :
    after { ready 0x10 [0x05, 0x11] with x := 0x99 } (fun u => (u.readByte 0x11, u.pc)) = some (0x99, 0x12) := by decide

theorem test_LS6_sty_of_zero_removes_the_entry :
    after ((ready 0x10 [0x06, 0x00]).writeByte 0x00 0x77) (fun u => (u.readByte 0x00, decide u.mem.wf)) = some (0x00, true) := by
  decide

theorem test_T1_txa :
    after { ready 0x10 [0x07] with x := 0xFF } (fun u => (u.a, u.x, u.pc)) = some (0xFF, 0xFF, 0x11) := by decide

theorem test_T2_tya :
    after { ready 0x10 [0x08] with y := 0x80, a := 0x01 } (fun u => u.a) = some 0x80 := by decide

theorem test_T3_tax :
    after { ready 0x10 [0x09] with a := 0x42 } (fun u => u.x) = some 0x42 := by decide

theorem test_T4_tay :
    after { ready 0x10 [0x0A] with a := 0x00, y := 0x09 } (fun u => u.y) = some 0x00 := by decide

theorem test_T5_tsx :
    after { ready 0x10 [0x0B] with sp := 0x00, x := 0x33 } (fun u => u.x) = some 0x00 := by decide

theorem test_T6_txs :
    after { ready 0x10 [0x0C] with x := 0xFF } (fun u => (u.sp, u.x)) = some (0xFF, 0xFF) := by decide

theorem test_S1_pha :
    after { ready 0x10 [0x0D] with a := 0x2A } (fun u => (u.readByte 0x00, u.sp)) = some (0x2A, 0x01) := by decide

theorem test_S2_pha_wraps :
    after { ready 0x10 [0x0D] with a := 0x01, sp := 0xFF } (fun u => (u.readByte 0xFF, u.sp)) = some (0x01, 0x00) := by decide

theorem test_S4_php_pushes_all_of_p :
    after { ready 0x10 [0x0E] with p := 0xFD, sp := 0x07 } (fun u => (u.readByte 0x07, u.sp, u.p)) = some (0xFD, 0x08, 0xFD) := by decide

theorem test_S3_pla_wraps :
    after ((ready 0x10 [0x0F]).writeByte 0xFF 0x9C) (fun u => (u.sp, u.a)) = some (0xFF, 0x9C) := by decide

theorem test_S6_pla_keeps_the_byte :
    after { (ready 0x10 [0x0F]).writeByte 0x00 0x2A with sp := 0x01 } (fun u => (u.a, u.sp, u.readByte 0x00)) =
      some (0x2A, 0x00, 0x2A) := by decide

theorem test_S5_plp_replaces_all_of_p :
    after { (ready 0x10 [0x10]).writeByte 0x07 0x00 with p := 0xFF, sp := 0x08 } (fun u => (u.p, u.sp)) =
      some (0x00, 0x07) := by decide

theorem test_I4_dec_wraps :
    after { ready 0x10 [0x11] with a := 0x00 } (fun u => u.a) = some 0xFF := by decide

theorem test_I7_dec_sets_no_zero_flag :
    after { ready 0x10 [0x11] with a := 0x01 } (fun u => (u.a, u.p)) = some (0x00, 0x00) := by decide

theorem test_I5_dex_wraps :
    after { ready 0x10 [0x12] with x := 0x00 } (fun u => u.x) = some 0xFF := by decide

theorem test_I6_dey_wraps :
    after { ready 0x10 [0x13] with y := 0x00 } (fun u => u.y) = some 0xFF := by decide

theorem test_I1_inc_wraps :
    after { ready 0x10 [0x14] with a := 0xFF } (fun u => (u.a, u.p)) = some (0x00, 0x00) := by decide

theorem test_I8_inx_leaves_sp :
    after { ready 0x10 [0x15] with x := 0x7F, sp := 0x7F } (fun u => (u.x, u.sp)) = some (0x80, 0x7F) := by decide

theorem test_I3_iny_wraps :
    after { ready 0x10 [0x16] with y := 0xFF } (fun u => u.y) = some 0x00 := by decide

theorem test_C1_cmp_sets_eq :
    after { ready 0x10 [0x17, 0x05] with a := 0x05 } (fun u => (u.p, u.pc)) = some (0x02, 0x12) := by decide

theorem test_C3_cmp_never_clears_eq :
    after { ready 0x10 [0x17, 0x06] with a := 0x05, p := 0x02 } (fun u => u.p) = some 0x02 := by decide

theorem test_C4_cmx_keeps_other_bits :
    after { ready 0x10 [0x18, 0x00] with x := 0x00, p := 0xFD } (fun u => u.p) = some 0xFF := by decide

theorem test_C5_cmy :
    after { ready 0x10 [0x19, 0xFF] with y := 0xFF, p := 0x80 } (fun u => u.p) = some 0x82 := by decide

theorem test_B3_beq_taken :
    after { ready 0x10 [0x1A, 0x40] with p := 0xFF } (fun u => (u.pc, u.p)) = some (0x40, 0xFD) := by decide

theorem test_B8_beq_not_taken_at_the_top :
    after { ready 0xFE [0x1A, 0x40] with p := 0x00 } (fun u => (u.pc, u.halted, u.p)) = some (0x00, false, 0x00) := by decide

theorem test_B6_bne_taken :
    after { ready 0x10 [0x1B, 0x40] with p := 0xFD } (fun u => (u.pc, u.p)) = some (0x40, 0xFD) := by decide

theorem test_B5_bne_not_taken :
    after { ready 0x10 [0x1B, 0x40] with p := 0x02 } (fun u => (u.pc, u.p)) = some (0x12, 0x00) := by decide

theorem test_B7_jmp_to_the_sentinel :
    after (ready 0x10 [0x1C, 0xFF]) (fun u => (u.pc, u.halted)) = some (0xFF, true) := by decide

theorem test_B10_jmp_keeps_eq :
    after { ready 0x10 [0x1C, 0x30] with p := 0x02 } (fun u => (u.pc, u.p)) = some (0x30, 0x02) := by decide

/-- The five bytes of a call frame from an address. -/
def frameAt (s : State) (b : Byte) : List Byte :=
  [s.readByte b, s.readByte (b + 1), s.readByte (b + 2), s.readByte (b + 3), s.readByte (b + 4)]

theorem test_J1_jsr_pushes_the_frame :
    after { ready 0x10 [0x1D, 0x40] with p := 0x80, a := 0x11, x := 0x22, y := 0x33 }
      (fun u => (frameAt u 0x00, u.sp, u.pc)) = some ([0x80, 0x11, 0x12, 0x22, 0x33], 0x05, 0x40) := by decide

theorem test_J2_jsr_with_operand_addr :
    after { ready 0x10 [0x1D, 0x40] with
        params := { Defaults.params with jsrSavedPc := .operandAddr }, p := 0x80, a := 0x11, x := 0x22, y := 0x33 }
      (fun u => frameAt u 0x00) = some [0x80, 0x11, 0x11, 0x22, 0x33] := by decide

theorem test_J4_rts_restores_the_frame :
    after { (ready 0x40 [0x1E]).load 0x00 [0x80, 0x11, 0x12, 0x22, 0x33] with sp := 0x05 }
      (fun u => (u.y, u.x, u.pc, u.p, u.sp)) = some (0x33, 0x22, 0x12, 0x80, 0x00) := by decide

theorem test_J5_rts_without_a_frame_wraps :
    after ((ready 0x40 [0x1E]).load 0xFB [0x01, 0x02, 0x03, 0x04, 0x05])
      (fun u => (u.y, u.x, u.pc, u.p, u.sp)) = some (0x05, 0x04, 0x03, 0x01, 0xFB) := by decide

theorem test_O1_oua :
    after { ready 0x10 [0x1F] with out := [0x07], a := 0xE9 } (fun u => (u.out, u.pc)) = some ([0x07, 0xE9], 0x11) := by decide

theorem test_H1_hlt :
    after { ready 0x10 [0x20] with a := 0x01, p := 0x02 } (fun u => (u.pc, u.a, u.p)) = some (0xFF, 0x01, 0x02) := by decide

theorem test_A2_apa :
    after { ready 0x10 [0x21] with a := 0xFF } (fun u => u.a) = some 0xFE := by decide

theorem test_A3_apx_records_no_carry :
    after { ready 0x10 [0x22] with a := 0xFF, x := 0x01 } (fun u => (u.a, u.x, u.p)) = some (0x00, 0x01, 0x00) := by decide

theorem test_A4_apy :
    after { ready 0x10 [0x23] with a := 0x90, y := 0x90 } (fun u => u.a) = some 0x20 := by decide

theorem test_A5_ada :
    after { ready 0x10 [0x24, 0x05] with a := 0xFE } (fun u => (u.a, u.pc)) = some (0x03, 0x12) := by decide

theorem test_A7_adx_leaves_a :
    after { ready 0x10 [0x25, 0xF0] with x := 0x10, a := 0x07 } (fun u => (u.x, u.a)) = some (0x00, 0x07) := by decide

theorem test_A8_ady :
    after { ready 0x10 [0x26, 0xFF] with y := 0xFF, p := 0x02 } (fun u => (u.y, u.p)) = some (0xFE, 0x02) := by decide

theorem test_N1_noop_of_zero :
    after { ready 0x10 [0x00] with a := 0x01 } (fun u => (u.pc, u.a)) = some (0x11, 0x01) := by decide

theorem test_N3_noop_at_254_halts :
    after (ready 0xFE [0x27]) (fun u => (u.pc, u.halted)) = some (0xFF, true) := by decide

/-! ## The memory block, the host and the run loop -/

theorem test_M1_word_round_trip :
    ((State.reset.writeWord 0x10 0x1234).readByte 0x10, (State.reset.writeWord 0x10 0x1234).readByte 0x11,
      ((State.reset.writeWord 0x10 0x1234).readWord 0x10).1) = (0x12, 0x34, some 0x1234) := by decide

theorem test_M3_word_read_at_the_top_faults :
    (State.reset.readWord 0xFF).1 = none ∧
      (State.reset.readWord 0xFF).2.faultRecord = some { reason := .wordAccessAtTop, addr := 0xFF } := by decide

theorem test_M4_word_write_at_the_top_wraps :
    (({ State.reset with params := { Defaults.params with wordTopPolicy := .wrap } }).writeWord 0xFF 0xABCD).mem =
      [(0, 0xCD), (255, 0xAB)] := by decide

theorem test_M5_memory_reset : ((ready 0x10 [0x01, 0x02]).memReset).mem = [] := by decide

theorem test_M6_load_wraps : (State.reset.load 0xFE [0x01, 0x42, 0x20]).mem = [(0, 0x20), (254, 0x01), (255, 0x42)] := by
  decide

theorem test_L1_launch_of_a_halted_core : launch 3 (State.create Defaults.params 0xFF) = .ended (State.create Defaults.params 0xFF) := by
  decide

theorem test_L2_one_step_launch :
    launch 1 (ready 0xFE [0x15]) = .ended { ready 0xFE [0x15] with x := 0x01, pc := 0xFF } := by decide

theorem test_host_is_refused_during_a_run :
    Session.host .memReset { block := State.reset, running := true } = .refused .hostDuringRun := rfl

theorem test_a_run_ends_at_the_sentinel :
    Session.turn { block := ready 0xFE [0x15], running := true } =
      .next { block := { ready 0xFE [0x15] with x := 0x01, pc := 0xFF }, running := false } := rfl

theorem test_first_step_after_reset_runs_the_placed_word :
    after (State.reset.withFetchWord 16 0b00101010_00000001) (fun u => (u.a, u.pc)) = some (0x2A, 0x12) := by decide

/-! ## Witnesses: the hypotheses of each statement are met -/

/-- The hypotheses of the step clause of `Executes`. -/
def RunsBytes (s : State) (bytes : List Byte) : Prop :=
  s.faultRecord = none ∧ s.pc ≠ 0xFF#8 ∧ s.params.opcodeMap = OpcodeMap.reference ∧ s.holds s.pc bytes

theorem runsBytes_one (pc b : Byte) (hp : pc ≠ 0xFF#8) : RunsBytes (ready pc [b]) [b] :=
  ⟨rfl, hp, rfl, by simp [ready, State.load, State.readByte_writeByte, State.create], trivial⟩

theorem runsBytes_two (pc b v : Byte) (hp : pc ≠ 0xFF#8) : RunsBytes (ready pc [b, v]) [b, v] := by
  refine ⟨rfl, hp, rfl, ?_, ?_, trivial⟩
  · simp [ready, State.load, State.readByte_writeByte, State.create]
  · simp [ready, State.load, State.readByte_writeByte, State.create]

theorem witness_LoadsPutTheOperandInTheRegister :
    RunsBytes (ready 0xFE [0x01#8, 0x2A#8]) [0x01#8, 0x2A#8] ∧
    RunsBytes (ready 0xFE [0x02#8, 0xFF#8]) [0x02#8, 0xFF#8] ∧
    RunsBytes (ready 0xFE [0x03#8, 0x00#8]) [0x03#8, 0x00#8] :=
  ⟨runsBytes_two _ _ _ (by decide), runsBytes_two _ _ _ (by decide), runsBytes_two _ _ _ (by decide)⟩

theorem witness_StoresWriteTheRegisterAtTheOperandAddress :
    RunsBytes (ready 0xFE [0x04#8, 0xFE#8]) [0x04#8, 0xFE#8] ∧
    RunsBytes (ready 0xFE [0x05#8, 0xFF#8]) [0x05#8, 0xFF#8] ∧
    RunsBytes (ready 0xFE [0x06#8, 0x00#8]) [0x06#8, 0x00#8] :=
  ⟨runsBytes_two _ _ _ (by decide), runsBytes_two _ _ _ (by decide), runsBytes_two _ _ _ (by decide)⟩

theorem witness_TransfersCopyOneRegister :
    RunsBytes (ready 0xFE [0x07#8]) [0x07#8] ∧
    RunsBytes (ready 0xFE [0x08#8]) [0x08#8] ∧
    RunsBytes (ready 0xFE [0x09#8]) [0x09#8] ∧
    RunsBytes (ready 0xFE [0x0A#8]) [0x0A#8] ∧
    RunsBytes (ready 0xFE [0x0B#8]) [0x0B#8] ∧
    RunsBytes (ready 0xFE [0x0C#8]) [0x0C#8] :=
  ⟨runsBytes_one _ _ (by decide), runsBytes_one _ _ (by decide), runsBytes_one _ _ (by decide), runsBytes_one _ _ (by decide), runsBytes_one _ _ (by decide), runsBytes_one _ _ (by decide)⟩

theorem witness_PushesWriteAtSpThenIncrementIt :
    RunsBytes (ready 0xFE [0x0D#8]) [0x0D#8] ∧
    RunsBytes (ready 0xFE [0x0E#8]) [0x0E#8] :=
  ⟨runsBytes_one _ _ (by decide), runsBytes_one _ _ (by decide)⟩

theorem witness_PopsDecrementSpThenRead :
    RunsBytes (ready 0xFE [0x0F#8]) [0x0F#8] ∧
    RunsBytes (ready 0xFE [0x10#8]) [0x10#8] :=
  ⟨runsBytes_one _ _ (by decide), runsBytes_one _ _ (by decide)⟩

theorem witness_IncrementsAndDecrementsWrapWithoutFlags :
    RunsBytes (ready 0xFE [0x11#8]) [0x11#8] ∧
    RunsBytes (ready 0xFE [0x12#8]) [0x12#8] ∧
    RunsBytes (ready 0xFE [0x13#8]) [0x13#8] ∧
    RunsBytes (ready 0xFE [0x14#8]) [0x14#8] ∧
    RunsBytes (ready 0xFE [0x15#8]) [0x15#8] ∧
    RunsBytes (ready 0xFE [0x16#8]) [0x16#8] :=
  ⟨runsBytes_one _ _ (by decide), runsBytes_one _ _ (by decide), runsBytes_one _ _ (by decide), runsBytes_one _ _ (by decide), runsBytes_one _ _ (by decide), runsBytes_one _ _ (by decide)⟩

theorem witness_ComparesSetEqOnEqualityAndNeverClearIt :
    RunsBytes (ready 0xFE [0x17#8, 0x05#8]) [0x17#8, 0x05#8] ∧
    RunsBytes (ready 0xFE [0x18#8, 0x00#8]) [0x18#8, 0x00#8] ∧
    RunsBytes (ready 0xFE [0x19#8, 0xFF#8]) [0x19#8, 0xFF#8] :=
  ⟨runsBytes_two _ _ _ (by decide), runsBytes_two _ _ _ (by decide), runsBytes_two _ _ _ (by decide)⟩

theorem witness_BranchesDecideOnEqThenClearIt :
    RunsBytes (ready 0xFE [0x1A#8, 0xFF#8]) [0x1A#8, 0xFF#8] ∧
    RunsBytes (ready 0xFE [0x1B#8, 0xFE#8]) [0x1B#8, 0xFE#8] :=
  ⟨runsBytes_two _ _ _ (by decide), runsBytes_two _ _ _ (by decide)⟩

theorem witness_JumpSetsPcAlone :
    RunsBytes (ready 0xFE [0x1C#8, 0xFF#8]) [0x1C#8, 0xFF#8] :=
  runsBytes_two _ _ _ (by decide)

theorem witness_CallPushesTheFrameAndJumps :
    RunsBytes (ready 0xFE [0x1D#8, 0x40#8]) [0x1D#8, 0x40#8] :=
  runsBytes_two _ _ _ (by decide)

theorem witness_ReturnPopsTheFrameInReverse :
    RunsBytes (ready 0xFE [0x1E#8]) [0x1E#8] :=
  runsBytes_one _ _ (by decide)

theorem witness_OutputEmitsAOnce :
    RunsBytes (ready 0xFE [0x1F#8]) [0x1F#8] :=
  runsBytes_one _ _ (by decide)

theorem witness_HaltSetsPcToTheSentinel :
    RunsBytes (ready 0xFE [0x20#8]) [0x20#8] :=
  runsBytes_one _ _ (by decide)

theorem witness_RegisterAddsWrapWithoutFlags :
    RunsBytes (ready 0xFE [0x21#8]) [0x21#8] ∧
    RunsBytes (ready 0xFE [0x22#8]) [0x22#8] ∧
    RunsBytes (ready 0xFE [0x23#8]) [0x23#8] :=
  ⟨runsBytes_one _ _ (by decide), runsBytes_one _ _ (by decide), runsBytes_one _ _ (by decide)⟩

theorem witness_ImmediateAddsWrapWithoutFlags :
    RunsBytes (ready 0xFE [0x24#8, 0xFF#8]) [0x24#8, 0xFF#8] ∧
    RunsBytes (ready 0xFE [0x25#8, 0xFF#8]) [0x25#8, 0xFF#8] ∧
    RunsBytes (ready 0xFE [0x26#8, 0xFF#8]) [0x26#8, 0xFF#8] :=
  ⟨runsBytes_two _ _ _ (by decide), runsBytes_two _ _ _ (by decide), runsBytes_two _ _ _ (by decide)⟩

theorem witness_NoopsConsumeOnlyTheOpcode :
    RunsBytes (ready 0xFE [0x00]) [0x00] ∧ (0x27 ≤ (0x27#8).toNat ∧ RunsBytes (ready 0xFE [0x27]) [0x27]) ∧
    (0x27 ≤ (0xFF#8).toNat ∧ RunsBytes (ready 0x00 [0xFF]) [0xFF]) ∧
    (ready 0xFE [0x00]).readByte (ready 0xFE [0x00]).pc = 0x00#8 ∧
    ∀ mn, OpcodeMap.reference.code mn ≠ (ready 0xFE [0xFF]).readByte (ready 0xFE [0xFF]).pc :=
  ⟨runsBytes_one _ _ (by decide), ⟨by decide, runsBytes_one _ _ (by decide)⟩, ⟨by decide, runsBytes_one _ _ (by decide)⟩,
    by decide, fun mn => by cases mn <;> decide⟩

theorem witness_CallAndReturnDrawAFreshFreeValueOfA :
    exec .txa State.reset = .next { State.reset with pc := 0x11 } ∧ (∀ v, Instr.txa ≠ .jsr v) ∧ Instr.txa ≠ .rts :=
  ⟨rfl, by simp, by decide⟩

theorem witness_DecodeOfEncodeIsTheInstruction :
    OpcodeMap.reference.Legal ∧ Instr.wellFormed OpcodeMap.reference (.lda 0xFF) = true ∧
      Instr.wellFormed OpcodeMap.reference .nopZero = true ∧
      Instr.wellFormed OpcodeMap.reference (.nopUnassigned 0x27) = true := by decide

theorem witness_EncodeOfDecodeIsTheBytes :
    decode OpcodeMap.reference [0x01, 0xFF, 0x20] = .ok (.lda 0xFF, [0x20]) ∧
      decode OpcodeMap.reference [0xFF] = .ok (.nopUnassigned 0xFF, []) := by decide

theorem witness_DecodeIsTotalOnBytes :
    OpcodeMap.reference.Legal ∧ OpcodeMap.reference.code .ady = 0x26#8 ∧ OpcodeMap.reference.code .lda = 0x01#8 ∧
      ∀ mn, OpcodeMap.reference.code mn ≠ 0x27#8 :=
  ⟨by decide, by decide, by decide, fun mn => by cases mn <;> decide⟩

theorem witness_StepRunsTheDecodedInstruction :
    (ready 0xFE [0x01, 0x2A]).faultRecord = none ∧ (ready 0xFE [0x01, 0x2A]).pc ≠ 0xFF#8 ∧
      decode (ready 0xFE [0x01, 0x2A]).params.opcodeMap
        [(ready 0xFE [0x01, 0x2A]).readByte 0xFE, (ready 0xFE [0x01, 0x2A]).readByte 0xFF] = .ok (.lda 0x2A, []) ∧
      Instr.wellFormed OpcodeMap.reference (.lda 0x2A) = true := by decide

theorem witness_StepRunsAPlacedInstruction :
    State.reset.faultRecord = none ∧ State.reset.pc ≠ 0xFF#8 ∧ State.reset.params.opcodeMap = OpcodeMap.reference ∧
      decodeTableWord 16 0x2A01 = some (.lda 0x2A) := by decide

theorem witness_NoInstructionFaultsOrIsRefused :
    (ready 0xFE [0x1E]).faultRecord = none ∧ (ready 0xFE [0x1E]).pc ≠ 0xFF#8 := by decide

/-- A block whose fault record is set. -/
def faulted : State := (State.reset.readWord 0xFF).2

theorem witness_FaultedBlockStopsForGood : faulted.faultRecord = some topRecord := by decide

theorem witness_HaltedCoreStaysAsItIs :
    (State.create Defaults.params 0xFF).faultRecord = none ∧ (State.create Defaults.params 0xFF).pc = 0xFF#8 := by decide

/-- A block under the other word policy. -/
def wrapping : State := { State.reset with params := { Defaults.params with wordTopPolicy := .wrap } }

theorem witness_WordAccessAtTheTopFollowsThePolicy :
    (State.reset.faultRecord = none ∧ State.reset.params.wordTopPolicy = .fault) ∧
      wrapping.faultRecord = none ∧ wrapping.params.wordTopPolicy = .wrap := by decide

theorem witness_WordsAreBigEndianAndRoundTrip : (0x00#8 : Byte) ≠ 0xFF#8 ∧ (0xFE#8 : Byte) ≠ 0xFF#8 := by decide

theorem witness_LoadPlacesTheImageWithWrap :
    ([0x01#8, 0x42#8, 0x20#8][2]? = some 0x20#8 ∧ [0x01#8, 0x42#8, 0x20#8].length ≤ 2 + 256) ∧
      (∀ i, i < [0x01#8].length → (0xFF#8 : Byte) ≠ 0xFE#8 + BitVec.ofNat 8 i) ∧
      ((List.replicate 257 0x07#8)[1]? = some 0x07#8 ∧ (List.replicate 257 0x07#8).length ≤ 1 + 256) :=
  ⟨by decide, by decide, rfl, le_of_eq List.length_replicate⟩

theorem witness_BootStepsCommute :
    State.reset.faultRecord = none ∧
      ([0x01#8, 0x42#8, 0x20#8][2]? = some 0x20#8 ∧ [0x01#8, 0x42#8, 0x20#8].length ≤ 2 + 256) ∧
      ((List.replicate 257 0x07#8)[1]? = some 0x07#8 ∧ (List.replicate 257 0x07#8).length ≤ 1 + 256) ∧
      ∀ i, i < [0x20#8].length → (0xFF#8 : Byte) ≠ 0x00#8 + BitVec.ofNat 8 i :=
  ⟨rfl, by decide, ⟨rfl, le_of_eq List.length_replicate⟩, by decide⟩

theorem witness_HostActsOnlyBetweenRuns :
    Session.running { block := State.reset, running := true } = true ∧
      (Session.running { block := State.reset, running := false } = false ∧ State.reset.faultRecord = none ∧
        State.reset.pc ≠ 0xFF#8) ∧
      Session.running { block := State.create Defaults.params 0xFF, running := false } = false ∧
        (State.create Defaults.params 0xFF).faultRecord = none ∧ (State.create Defaults.params 0xFF).pc = 0xFF#8 := by
  decide

theorem witness_HostOperationsAnswerTheirEffects :
    (State.reset.faultRecord = none ∧ State.reset.params.wordTopPolicy = .fault ∧ (0xFE#8 : Byte) ≠ 0xFF#8 ∧
      (0x00#8 : Byte) ≠ 0xFF#8) ∧
      wrapping.faultRecord = none ∧ wrapping.params.wordTopPolicy = .wrap := by decide

theorem witness_HostByteWriteIsReadBack : State.reset.faultRecord = none ∧ (0xFF#8 : Byte) = 0xFF ∧ (0x00#8 : Byte) ≠ 0xFF := by
  decide

theorem witness_SessionsRunOnlyActiveBlocks :
    (Session.running { block := ready 0xFE [0x15], running := true } = true ∧ (ready 0xFE [0x15]).active = true) ∧
      (Session.launch { block := ready 0xFE [0x15], running := false } = .next { block := ready 0xFE [0x15], running := true }) ∧
      Session.host .readState { block := State.reset, running := false } =
        .next ({ block := State.reset, running := false }, .state State.reset) :=
  ⟨by decide, rfl, rfl⟩

theorem witness_EveryInstructionKeepsItsFrame : exec .hlt State.reset = .next { State.reset with pc := 0xFF } := rfl

theorem witness_StoresTouchOnlyTheirOwnBytes :
    exec (.sta 0x80) State.reset = .next { State.reset with pc := 0x12 } ∧
      (0x81#8 : Byte) ∉ Instr.storesTo State.reset (.sta 0x80) ∧ (0x05#8 : Byte) ∉ Instr.storesTo State.reset (.jsr 0x40) ∧
      (0xFF#8 : Byte) ∉ Instr.storesTo State.reset .pha ∧ (0x00#8 : Byte) ∉ Instr.storesTo State.reset .pla :=
  ⟨rfl, by decide, by decide, by decide, by decide⟩

theorem witness_PcAdvancesByTheInstructionsLength :
    Instr.setsPc (.lda 0x00) = false ∧ Instr.setsPc .txa = false ∧ Instr.setsPc .nopZero = false := by decide

/-- A compare that does not hold, with EQ and a reserved bit set before it. -/
def comparing : State := { ready 0x10 [0x17, 0x06] with a := 0x05, p := 0x82 }

theorem witness_EqIsClearedOnlyByBranchesPlpAndRts :
    Run (fun i => !i.mayClearEq) 1 comparing { comparing with pc := 0x12 } ∧ comparing.p.getLsbD 1 = true :=
  ⟨⟨by decide, by decide, _, rfl, rfl⟩, by decide⟩

theorem witness_ReservedStatusBitsArePreserved :
    Run (fun i => decide (i ≠ .plp ∧ i ≠ .rts)) 1 comparing { comparing with pc := 0x12 } ∧ (0 : Nat) ≠ 1 ∧ (7 : Nat) ≠ 1 :=
  ⟨⟨by decide, by decide, _, rfl, rfl⟩, by decide, by decide⟩

theorem witness_OutputTraceGrowsOnlyByOua :
    ((ready 0x10 [0x1F]).active = true ∧ step (ready 0x10 [0x1F]) = .next { ready 0x10 [0x1F] with out := [0x00], pc := 0x11 }) ∧
      Run (fun _ => true) 1 (ready 0x10 [0x1F]) { ready 0x10 [0x1F] with out := [0x00], pc := 0x11 } :=
  ⟨⟨by decide, rfl⟩, ⟨by decide, rfl, _, rfl, rfl⟩⟩

theorem witness_RunsNeverSetTheFaultRecord : Run (fun _ => true) (0 + 1) State.reset { State.reset with pc := 0x11 } :=
  ⟨by decide, rfl, _, rfl, rfl⟩

theorem witness_invariant_met : Inv (ready 0x10 [0x01, 0x2A]) :=
  ⟨by decide, by decide, fun _ h => by cases h⟩

theorem witness_InvariantIsKeptByEveryStep :
    Inv (ready 0x10 [0x01, 0x2A]) ∧ step (ready 0x10 [0x01, 0x2A]) = .next { ready 0x10 [0x01, 0x2A] with a := 0x2A, pc := 0x12 } :=
  ⟨witness_invariant_met, rfl⟩

theorem witness_InvariantHoldsAtCreation : Params.opcodeMap Defaults.params = OpcodeMap.reference ∧ otherMap.Legal := by decide

theorem witness_InvariantIsKeptByHostOperations :
    Inv (ready 0x10 [0x01, 0x2A]) ∧
      hostOp .memReset (ready 0x10 [0x01, 0x2A]) = .next ({ ready 0x10 [0x01, 0x2A] with mem := [] }, .done) :=
  ⟨witness_invariant_met, rfl⟩

theorem witness_CanonicalMemoryIsDeterminedByItsBytes :
    Memory.wf [(0, 0x01), (255, 0x02)] ∧ ∀ b, Memory.read [(0, 0x01), (255, 0x02)] b = Memory.read [(0, 0x01), (255, 0x02)] b :=
  ⟨by decide, fun _ => rfl⟩

/-- The state a JSR leaves, from a caller with SP near the top of memory. -/
def caller : State := { ready 0x10 [0x1D, 0x40] with sp := 0xFE, x := 0x03, y := 0x04 }

def called : State := (((caller.advance 2).pushFrame caller.returnAddress).drawA.jump 0x40)

theorem witness_CallThenReturnRestoresTheCaller :
    exec (.jsr 0x40) caller = .next called ∧ State.sp { called with x := 0x55, pc := 0x41 } = called.sp ∧
      ∀ b, b ∈ [caller.sp, caller.sp + 1, caller.sp + 2, caller.sp + 3, caller.sp + 4] →
        State.readByte { called with x := 0x55, pc := 0x41 } b = called.readByte b :=
  ⟨rfl, rfl, fun _ _ => rfl⟩

/-- The same call on a machine that saves p + 1, and what it leaves. -/
def callerOperand : State := { caller with params := { Defaults.params with jsrSavedPc := .operandAddr } }

def calledOperand : State := (((callerOperand.advance 2).pushFrame callerOperand.returnAddress).drawA.jump 0x40)

theorem witness_CallThenReturnUnderOperandAddr :
    callerOperand.params.jsrSavedPc ≠ .nextInstr ∧ exec (.jsr 0x40) callerOperand = .next calledOperand ∧
      State.sp { calledOperand with y := 0x55, pc := 0x41 } = calledOperand.sp ∧
      ∀ b, b ∈ [callerOperand.sp, callerOperand.sp + 1, callerOperand.sp + 2, callerOperand.sp + 3, callerOperand.sp + 4] →
        State.readByte { calledOperand with y := 0x55, pc := 0x41 } b = calledOperand.readByte b :=
  ⟨by decide, rfl, rfl, fun _ _ => rfl⟩

theorem witness_PopUndoesPush : State.x { State.reset with x := 0x00 } = (0xFF#8 : Byte) + 1 := by decide

/-- Each store with its operand at the next opcode, at the next operand byte (p + 3), and wrapping from 254. -/
theorem witness_StoredByteIsSeenByTheNextFetch :
    ((ready 0x10 [0x04, 0x12]).active = true ∧ (ready 0x10 [0x04, 0x12]).fetchInstr = .sta 0x12) ∧
    ((ready 0x10 [0x05, 0x13]).active = true ∧ (ready 0x10 [0x05, 0x13]).fetchInstr = .stx 0x13) ∧
    (ready 0xFE [0x06, 0x00]).active = true ∧ (ready 0xFE [0x06, 0x00]).fetchInstr = .sty 0x00 := by decide

/-- Program P5's STA: the operand of the LDX that follows is the byte just stored. -/
theorem test_P5_store_over_the_next_operand :
    after { ready 0x12 [0x04, 0x15, 0x02, 0x00] with a := 0x07 } State.fetchInstr = some (.ldx 0x07) := by decide

/-- A pushed byte replaces the opcode that follows: INX in the place of LDX (R134). -/
theorem test_push_over_the_next_opcode :
    after { ready 0x10 [0x0D, 0x02, 0x00] with a := 0x15, sp := 0x11 } State.fetchInstr = some .inx := by decide

/-- Pushes over the next opcode and over the byte after it, and a JSR into its own frame. -/
theorem witness_PushedByteIsSeenByTheNextFetch :
    (State.active { ready 0x10 [0x0D] with sp := 0x11 } = true ∧
      State.fetchInstr { ready 0x10 [0x0D] with sp := 0x11 } = .pha) ∧
    (State.active { ready 0xFE [0x0E] with sp := 0x00 } = true ∧
      State.fetchInstr { ready 0xFE [0x0E] with sp := 0x00 } = .php) ∧
    (ready 0x10 [0x1D, 0x04]).active = true ∧ (ready 0x10 [0x1D, 0x04]).fetchInstr = .jsr 0x04 := by decide

theorem witness_OperandFetchAtTheTopWrapsWithoutHalting :
    ((ready 0xFE [0x01, 0x42]).faultRecord = none ∧ (ready 0xFE [0x01, 0x42]).pc = 0xFE#8 ∧
      (ready 0xFE [0x01, 0x42]).fetchInstr.setsPc = false ∧ (ready 0xFE [0x01, 0x42]).fetchInstr.length = 2) ∧
    (ready 0xFE [0x15]).faultRecord = none ∧ (ready 0xFE [0x15]).pc = 0xFE#8 ∧
      (ready 0xFE [0x15]).fetchInstr.setsPc = false ∧ (ready 0xFE [0x15]).fetchInstr.length = 1 := by decide

/-- Each known way to the sentinel, the two-byte instruction at 253 last. -/
theorem witness_SentinelIsReachedOnlyInKnownWays :
    [ready 0x10 [0x20], { ready 0x10 [0x1A, 0xFF] with p := 0x02 }, ready 0x10 [0x1B, 0xFF], ready 0x10 [0x1C, 0xFF],
      ready 0x10 [0x1D, 0xFF], { (ready 0x40 [0x1E]).writeByte 0x02 0xFF with sp := 0x05 }, ready 0xFE [0x15],
      ready 0xFD [0x01, 0x42]].map (fun s => (s.active, after s State.halted)) =
    List.replicate 8 (true, some true) := by decide

theorem witness_SentinelIsReachedOnlyAsR124Lists :
    (ready 0xFE [0x15]).active = true ∧ step (ready 0xFE [0x15]) = .next { ready 0xFE [0x15] with x := 0x01, pc := 0xFF } :=
  ⟨by decide, rfl⟩

theorem witness_ZeroMemorySlidesToTheHalt : State.reset.faultRecord = none ∧ ∀ b, State.reset.readByte b = 0x00#8 :=
  ⟨rfl, fun _ => rfl⟩

theorem witness_BranchToItselfRunsForEver :
    (ready 0x10 [0x1B, 0x10]).active = true ∧ (ready 0x10 [0x1B, 0x10]).p.getLsbD 1 = false ∧
      (ready 0x10 [0x1B, 0x10]).fetchInstr = .bne (ready 0x10 [0x1B, 0x10]).pc := by decide

theorem witness_OnlyTheDrawnADependsOnTheDraws :
    (ready 0x10 [0x07]).active = true ∧ step (ready 0x10 [0x07]) = .next { ready 0x10 [0x07] with pc := 0x11 } ∧
      (∀ v, (ready 0x10 [0x07]).fetchInstr ≠ .jsr v) ∧ (ready 0x10 [0x07]).fetchInstr ≠ .rts :=
  ⟨by decide, rfl, fun v => by rw [show (ready 0x10 [0x07]).fetchInstr = .txa from by decide]; simp, by decide⟩

end Sys2Proof.Tests
end

section
/-! Proofs of the statements of 10_state.md: what each instruction may change, and what a run keeps. -/

namespace Sys2Proof

/-- The reference assignment of R55 is injective and spares 0x00 (R54). -/
theorem OpcodeMap.legal_reference : OpcodeMap.reference.Legal := by decide

end Sys2Proof

namespace Sys2Proof.Machine

/-! ## Instructions that complete -/

/-- What holds of the state an instruction completes with holds of any state it answers. -/
theorem Completes.of_next {i : Instr} {s t : State} {post : State → Prop} (hc : Completes i s post)
    (h : exec i s = .next t) : post t := by
  obtain ⟨u, hu, hp⟩ := hc
  obtain rfl : u = t := Host.Outcome.next.inj (hu.symm.trans h)
  exact hp

theorem Completes.mono {i : Instr} {s : State} {post post' : State → Prop} (hc : Completes i s post)
    (h : ∀ t, post t → post' t) : Completes i s post' := by
  obtain ⟨t, ht, hp⟩ := hc
  exact ⟨t, ht, h t hp⟩

/-! ## Frames of the shared operations -/

theorem Frame.mono {c d : List Field} {s t : State} (h : Frame c s t) (hcd : c ⊆ d) : Frame d s t where
  a hd := h.a fun hc => hd (hcd hc)
  x hd := h.x fun hc => hd (hcd hc)
  y hd := h.y fun hc => hd (hcd hc)
  p hd := h.p fun hc => hd (hcd hc)
  sp hd := h.sp fun hc => hd (hcd hc)
  pc hd := h.pc fun hc => hd (hcd hc)
  mem hd := h.mem fun hc => hd (hcd hc)
  out hd := h.out fun hc => hd (hcd hc)
  draws hd := h.draws fun hc => hd (hcd hc)
  faultRecord := h.faultRecord
  params := h.params

theorem Frame.trans {c : List Field} {s t u : State} (h : Frame c s t) (h' : Frame c t u) : Frame c s u where
  a hc := (h'.a hc).trans (h.a hc)
  x hc := (h'.x hc).trans (h.x hc)
  y hc := (h'.y hc).trans (h.y hc)
  p hc := (h'.p hc).trans (h.p hc)
  sp hc := (h'.sp hc).trans (h.sp hc)
  pc hc := (h'.pc hc).trans (h.pc hc)
  mem hc b := (h'.mem hc b).trans (h.mem hc b)
  out hc := (h'.out hc).trans (h.out hc)
  draws hc := (h'.draws hc).trans (h.draws hc)
  faultRecord := h'.faultRecord.trans h.faultRecord
  params := h'.params.trans h.params

/-- Two changes in a row, each within its own frame, stay within the frames' union. -/
theorem Frame.comp {c d : List Field} {s t u : State} (h : Frame c s t) (h' : Frame d t u) : Frame (d ++ c) s u :=
  (h.mono (List.subset_append_right d c)).trans (h'.mono (List.subset_append_left d c))

/-- The piece of state a register is. -/
def Reg.field : Reg → Field
  | .a => .a
  | .x => .x
  | .y => .y
  | .p => .p
  | .sp => .sp

namespace State

variable (s : State)

@[simp] theorem readByte_pop (b : Byte) : s.pop.2.readByte b = s.readByte b := rfl
@[simp] theorem readByte_compare (r : Reg) (v b : Byte) : (s.compare r v).readByte b = s.readByte b := rfl
@[simp] theorem readByte_branch (taken : Bool) (v b : Byte) : (s.branch taken v).readByte b = s.readByte b := rfl
@[simp] theorem readByte_popFrame (b : Byte) : s.popFrame.readByte b = s.readByte b := rfl
@[simp] theorem readByte_coreReset (origin b : Byte) : (s.coreReset origin).readByte b = s.readByte b := rfl
@[simp] theorem readByte_memReset (b : Byte) : s.memReset.readByte b = 0x00#8 := rfl
@[simp] theorem readByte_create (params : Params) (origin b : Byte) :
    (State.create params origin).readByte b = 0x00#8 := rfl

theorem frame_advance (n : Byte) : Frame [.pc] s (s.advance n) := by constructor <;> simp
theorem frame_jump (v : Byte) : Frame [.pc] s (s.jump v) := by constructor <;> simp
theorem frame_setReg (r : Reg) (v : Byte) : Frame [r.field] s (s.setReg r v) := by
  cases r <;> constructor <;> simp [Reg.field]
theorem frame_writeByte (addr v : Byte) : Frame [.mem] s (s.writeByte addr v) := by constructor <;> simp
theorem frame_push (v : Byte) : Frame [.sp, .mem] s (s.push v) := by constructor <;> simp
theorem frame_pop : Frame [.sp] s s.pop.2 := by constructor <;> simp
theorem frame_emit (v : Byte) : Frame [.out] s (s.emit v) := by constructor <;> simp
theorem frame_drawA : Frame [.a, .draws] s s.drawA := by constructor <;> simp
theorem frame_compare (r : Reg) (v : Byte) : Frame [.p] s (s.compare r v) := by constructor <;> simp
theorem frame_branch (taken : Bool) (v : Byte) : Frame [.pc, .p] s (s.branch taken v) := by constructor <;> simp
theorem frame_popFrame : Frame [.pc, .x, .y, .p, .sp] s s.popFrame := by constructor <;> simp
theorem frame_coreReset (origin : Byte) : Frame [.a, .x, .y, .p, .sp, .pc, .out] s (s.coreReset origin) := by
  constructor <;> simp

theorem frame_pushFrame (ret : Byte) : Frame [.sp, .mem] s (s.pushFrame ret) :=
  ((((s.frame_push _).trans (frame_push _ _)).trans (frame_push _ _)).trans (frame_push _ _)).trans (frame_push _ _)

end State

/-! ## The frame and PC of every instruction -/

/-- Every instruction completes within the frame the spec lets it write (R13 to R15, R17, R20, R24, R36). -/
theorem completes_frame (i : Instr) (s : State) : Completes i s (Frame i.writes s) := by
  cases i with
  | lda | txa | tya | dec | inc | apa | apx | apy | ada =>
    exact ⟨_, rfl, (s.frame_setReg .a _).comp (State.frame_advance _ _)⟩
  | ldx | tax | tsx | dex | inx | adx => exact ⟨_, rfl, (s.frame_setReg .x _).comp (State.frame_advance _ _)⟩
  | ldy | tay | dey | iny | ady => exact ⟨_, rfl, (s.frame_setReg .y _).comp (State.frame_advance _ _)⟩
  | txs => exact ⟨_, rfl, (s.frame_setReg .sp _).comp (State.frame_advance _ _)⟩
  | sta | stx | sty => exact ⟨_, rfl, (s.frame_writeByte _ _).comp (State.frame_advance _ _)⟩
  | pha | php => exact ⟨_, rfl, (s.frame_push _).comp (State.frame_advance _ _)⟩
  | pla => exact ⟨_, rfl, (s.frame_pop.comp (State.frame_setReg _ .a _)).comp (State.frame_advance _ _)⟩
  | plp => exact ⟨_, rfl, (s.frame_pop.comp (State.frame_setReg _ .p _)).comp (State.frame_advance _ _)⟩
  | cmp | cmx | cmy => exact ⟨_, rfl, (s.frame_compare _ _).comp (State.frame_advance _ _)⟩
  | beq | bne => exact ⟨_, rfl, ((s.frame_advance _).mono (by simp [Instr.writes])).trans (State.frame_branch _ _ _)⟩
  | jmp | hlt => exact ⟨_, rfl, (s.frame_advance _).trans (State.frame_jump _ _)⟩
  | jsr =>
    refine ⟨_, rfl, ((((s.frame_advance _).comp (State.frame_pushFrame _ _)).comp (State.frame_drawA _)).comp
      (State.frame_jump _ _)).mono ?_⟩
    simp [Instr.writes]
  | rts =>
    refine ⟨_, rfl, (((s.frame_advance _).comp (State.frame_popFrame _)).comp (State.frame_drawA _)).mono ?_⟩
    simp [Instr.writes]
  | oua => exact ⟨_, rfl, (s.frame_emit _).comp (State.frame_advance _ _)⟩
  | nopZero | nopUnassigned => exact ⟨_, rfl, s.frame_advance _⟩

theorem exec_frame {i : Instr} {s t : State} (h : exec i s = .next t) : Frame i.writes s t :=
  (completes_frame i s).of_next h

/-- An instruction that does not overwrite PC leaves it past its own bytes (R21, R57). -/
theorem completes_pc {i : Instr} (hi : i.setsPc = false) (s : State) :
    Completes i s fun t => t.pc = s.pc + BitVec.ofNat 8 i.length := by
  cases i with
  | beq | bne | jmp | jsr | rts | hlt => cases hi
  | _ => exact ⟨_, rfl, rfl⟩

/-- The encoding under any map has the instruction's length (R48, R57). -/
theorem encode_length (m : OpcodeMap) (i : Instr) : (encode m i).length = i.length := by cases i <;> rfl

/-! ## Runs -/

/-- What the start of a run has and every allowed instruction keeps, the end of the run has. -/
theorem Run.invariant {allowed : Instr → Bool} {P : State → Prop}
    (hstep : ∀ u v, P u → allowed u.fetchInstr = true → exec u.fetchInstr u = .next v → P v) :
    ∀ {n : Nat} {s t : State}, Run allowed n s t → P s → P t
  | 0, _, _, rfl, hs => hs
  | _ + 1, s, _, ⟨hactive, hallowed, u, hu, hrun⟩, hs =>
    Run.invariant hstep hrun (hstep s u hs hallowed (step_active hactive ▸ hu))

/-! ## P, the output trace and the parameters -/

/-- Only PLP and RTS, which load P whole, can change a bit of P other than EQ (R19). -/
theorem exec_getLsbD_p {i : Instr} {s t : State} (h : exec i s = .next t) (hplp : i ≠ .plp) (hrts : i ≠ .rts)
    {k : Nat} (hk : k ≠ 1) : t.p.getLsbD k = s.p.getLsbD k := by
  cases i with
  | plp => exact absurd rfl hplp
  | rts => exact absurd rfl hrts
  | cmp | cmx | cmy =>
    obtain rfl := Host.Outcome.next.inj h
    simp [getLsbD_compareFlags, hk]
  | beq | bne =>
    obtain rfl := Host.Outcome.next.inj h
    simp [getLsbD_clearEq, hk]
  | _ => rw [(exec_frame h).p (by simp [Instr.writes])]

theorem out_mem_writes {i : Instr} : Field.out ∈ i.writes ↔ i = .oua := by cases i <;> simp [Instr.writes]

/-- Only OUA emits, and it emits A (R24). -/
theorem exec_out {i : Instr} {s t : State} (h : exec i s = .next t) :
    t.out = s.out ++ if i = .oua then [s.a] else [] := by
  by_cases hi : i = .oua
  · subst hi
    obtain rfl := Host.Outcome.next.inj h
    simp
  · rw [(exec_frame h).out (mt out_mem_writes.mp hi), if_neg hi, List.append_nil]

/-! ## Creation -/

/-- A block created with a legal opcode map meets the invariant. -/
theorem Inv.create {params : Params} (h : params.opcodeMap.Legal) (origin : Byte) : Inv (State.create params origin) where
  mem := Memory.wf_nil
  map := h
  record _ hr := nomatch hr

end Sys2Proof.Machine

open Sys2Proof Sys2Proof.Machine

/-- Settles O37, from the frames of the operations each instruction is made of. -/
theorem everyInstructionKeepsItsFrame : Obligations.EveryInstructionKeepsItsFrame :=
  fun _ _ _ => exec_frame

/-- Settles O39: PC is a byte, so the sum of PC and the length is taken modulo 256. -/
theorem pcAdvancesByTheInstructionsLength : Obligations.PcAdvancesByTheInstructionsLength := by
  intro m i s hi
  refine (completes_pc hi s).mono fun t ht => ?_
  rw [ht, encode_length]
  simp

/-- Settles O41, with the seven bits as the run's invariant. -/
theorem reservedStatusBitsArePreserved : Obligations.ReservedStatusBitsArePreserved := by
  intro n s t hrun k hk
  refine Run.invariant (P := fun u => u.p.getLsbD k = s.p.getLsbD k) (fun u v hu hallowed hexec => ?_) hrun rfl
  obtain ⟨hplp, hrts⟩ := of_decide_eq_true hallowed
  exact (exec_getLsbD_p hexec hplp hrts hk).trans hu

/-- Settles O42, with "the trace begins with the old one" as the run's invariant. -/
theorem outputTraceGrowsOnlyByOua : Obligations.OutputTraceGrowsOnlyByOua := by
  refine ⟨fun s t hactive hstep => exec_out (step_active hactive ▸ hstep), fun n s t hrun => ?_, State.coreReset_out⟩
  refine Run.invariant (P := fun u => s.out <+: u.out) (fun u v hu _ hexec => ?_) hrun (List.prefix_refl _)
  rw [exec_out hexec]
  exact hu.trans (List.prefix_append ..)

/-- Settles O43: no instruction's frame holds the fault record or the parameters, and a first step needs no record. -/
theorem runsNeverSetTheFaultRecord : Obligations.RunsNeverSetTheFaultRecord := by
  intro n s t hrun
  have hnone : s.faultRecord = none := (State.active_iff.mp hrun.1).1
  obtain ⟨hrecord, hparams⟩ : t.faultRecord = s.faultRecord ∧ t.params = s.params :=
    Run.invariant (P := fun u => u.faultRecord = s.faultRecord ∧ u.params = s.params)
      (fun u v ⟨hr, hp⟩ _ hexec => ⟨(exec_frame hexec).faultRecord.trans hr, (exec_frame hexec).params.trans hp⟩)
      hrun ⟨rfl, rfl⟩
  exact ⟨hnone, hrecord.trans hnone, hparams⟩

/-- Settles O30: the fields as the two operations give them, and the frame of the core reset. -/
theorem creationAndCoreResetGiveTheInitialValues : Obligations.CreationAndCoreResetGiveTheInitialValues :=
  ⟨fun params origin => ⟨rfl, rfl, rfl, rfl, rfl, rfl, rfl, rfl, State.readByte_create params origin⟩,
    fun s origin => ⟨rfl, rfl, rfl, rfl, rfl, rfl, rfl, s.frame_coreReset origin, State.readByte_memReset _⟩⟩

/-- Settles O45: `State.reset` is a creation with the reference assignment. -/
theorem invariantHoldsAtCreation : Obligations.InvariantHoldsAtCreation :=
  ⟨Inv.create OpcodeMap.legal_reference _, fun _ origin hmap => Inv.create hmap origin⟩
end

section
/-! Proofs of the statements of 20_memory.md: what an instruction and a host operation do to the bytes of memory, and
which bytes the next fetch sees. -/

namespace Sys2Proof.Machine

/-! ## The canonical form -/

/-- A byte that differs from what an unlisted address reads as is listed. -/
theorem Memory.mem_of_read {m : Memory} {b v : Byte} (h : m.read b = v) (hv : v ≠ Memory.unlisted) :
    (b.toNat, v) ∈ m := by
  induction m with
  | nil => exact absurd h.symm hv
  | cons d ds ih =>
    unfold Memory.read at h
    split at h
    · next hd => exact List.mem_cons.mpr (.inl (Prod.ext hd.symm h.symm))
    · exact List.mem_cons_of_mem d (ih h)

/-- In the canonical form each listed byte is the one its address reads as: no address is listed twice. -/
theorem Memory.read_of_mem {m : Memory} (hm : m.wf) {b v : Byte} (h : (b.toNat, v) ∈ m) : m.read b = v := by
  obtain ⟨hsorted, -⟩ := hm
  induction m with
  | nil => cases h
  | cons d ds ih =>
    obtain ⟨hd, hds⟩ := List.pairwise_cons.mp hsorted
    unfold Memory.read
    rcases List.mem_cons.mp h with rfl | htail
    · exact if_pos rfl
    · rw [if_neg (hd _ htail).ne, ih htail hds]

/-- The cells of a canonical memory are determined by its bytes. -/
theorem Memory.mem_of_same_bytes {m m' : Memory} (hm : m.wf) (h : ∀ b, m.read b = m'.read b) {c : Host.Cell}
    (hc : c ∈ m) : c ∈ m' := by
  obtain ⟨n, v⟩ := c
  obtain ⟨hn, hv⟩ := hm.2 _ hc
  obtain ⟨b, rfl⟩ : ∃ b : Byte, b.toNat = n := ⟨BitVec.ofNat 8 n, Nat.mod_eq_of_lt hn⟩
  exact Memory.mem_of_read ((h b).symm.trans (Memory.read_of_mem hm hc)) hv

theorem Memory.eq_of_same_bytes {m m' : Memory} (hm : m.wf) (hm' : m'.wf) (h : ∀ b, m.read b = m'.read b) : m = m' :=
  haveI : Std.Irrefl fun c d : Host.Cell => c.1 < d.1 := ⟨fun _ => lt_irrefl _⟩
  haveI : Std.Antisymm fun c d : Host.Cell => c.1 < d.1 := ⟨fun _ _ h h' => absurd h h'.asymm⟩
  hm.1.eq_of_mem_iff hm'.1 fun _ =>
    ⟨Memory.mem_of_same_bytes hm h, Memory.mem_of_same_bytes hm' fun b => (h b).symm⟩

/-- The memory reset changes memory alone (R121). -/
theorem State.frame_memReset (s : State) : Frame [.mem] s s.memReset := by constructor <;> simp

/-! ## What an instruction does to memory -/

/-- An instruction changes memory by byte writes at the addresses it stores to (R36), and by nothing else: what memory
has before it, and every such write keeps, memory has after it. -/
theorem exec_mem {P : Memory → Prop} {i : Instr} {s t : State} (h : exec i s = .next t) (hs : P s.mem)
    (hwrite : ∀ addr ∈ i.storesTo s, ∀ m v, P m → P (Memory.write m addr v)) : P t.mem := by
  cases i with
  | sta | stx | sty | pha | php =>
    obtain rfl := Host.Outcome.next.inj h
    exact hwrite _ (List.mem_singleton_self _) _ _ hs
  | jsr =>
    obtain rfl := Host.Outcome.next.inj h
    have h2 : s.sp + 1 + 1 = s.sp + 2 := by bv_omega
    have h3 : s.sp + 2 + 1 = s.sp + 3 := by bv_omega
    have h4 : s.sp + 3 + 1 = s.sp + 4 := by bv_omega
    simp only [Instr.storesTo, List.forall_mem_cons] at hwrite
    obtain ⟨w0, w1, w2, w3, w4, -⟩ := hwrite
    simp only [State.jump_mem, State.drawA_mem, State.pushFrame_mem, State.advance_mem, State.advance_sp, h2, h3, h4]
    exact w4 _ _ (w3 _ _ (w2 _ _ (w1 _ _ (w0 _ _ hs))))
  | _ =>
    obtain rfl := Host.Outcome.next.inj h
    exact hs

theorem exec_mem_wf {i : Instr} {s t : State} (h : exec i s = .next t) (hs : s.mem.wf) : t.mem.wf :=
  exec_mem h hs fun addr _ _ v hm => Memory.wf_write hm addr v

theorem exec_readByte_of_not_stored {i : Instr} {s t : State} (h : exec i s = .next t) {b : Byte}
    (hb : b ∉ i.storesTo s) : t.readByte b = s.readByte b :=
  exec_mem (P := fun m => m.read b = s.readByte b) h rfl fun _ haddr _ _ hm =>
    (Memory.read_write_other (ne_of_mem_of_not_mem haddr hb).symm _ _).trans hm

/-- Every instruction keeps the invariant: its memory effect is byte writes, and its frame holds the rest. -/
theorem Inv.of_exec {i : Instr} {s t : State} (hs : Inv s) (h : exec i s = .next t) : Inv t where
  mem := exec_mem_wf h hs.mem
  map := (exec_frame h).params ▸ hs.map
  record := (exec_frame h).faultRecord ▸ hs.record

/-! ## Words -/

/-- A word as the number its two bytes make (R8). -/
theorem word_toNat (w : Word) : w.toNat = (wordHigh w).toNat * 256 + (wordLow w).toNat := by
  rw [← wordOf_toNat, wordOf_high_low]

theorem wordHigh_toNat (w : Word) : (wordHigh w).toNat = w.toNat / 256 := by
  have hsplit := word_toNat w
  have hlow := (wordLow w).isLt
  omega

theorem wordLow_toNat (w : Word) : (wordLow w).toNat = w.toNat % 256 := by
  have hsplit := word_toNat w
  have hlow := (wordLow w).isLt
  omega

namespace State

variable {s : State} {a : Byte}

/-- A word access goes through below 255, and at 255 under `WRAP` (R31 to R33). -/
theorem wordFaults_eq_false : s.wordFaults a = false ↔ a ≠ 0xFF#8 ∨ s.params.wordTopPolicy = .wrap := by
  cases hpolicy : s.params.wordTopPolicy <;> simp [State.wordFaults, hpolicy]

theorem readWord_of_not_faults (h : s.wordFaults a = false) :
    s.readWord a = (some (wordOf (s.readByte a) (s.readByte (a + 1))), s) := by
  simp [State.readWord, h]

theorem writeWord_of_not_faults (h : s.wordFaults a = false) (w : Word) :
    s.writeWord a w = (s.writeByte a (wordHigh w)).writeByte (a + 1) (wordLow w) := by
  simp [State.writeWord, h]

/-- The first fault record is the one given (R26). -/
theorem recordFault_of_no_record (h : s.faultRecord = none) (r : FaultRecord) :
    s.recordFault r = { s with faultRecord := some r } := by
  simp [State.recordFault, h]

/-- A word read at 255 under `FAULT` returns no value and sets the record (R33). -/
theorem readWord_top_of_fault (hrecord : s.faultRecord = none) (hpolicy : s.params.wordTopPolicy = .fault) :
    s.readWord 0xFF#8 = (none, { s with faultRecord := some topRecord }) := by
  rw [State.readWord, if_pos (State.wordFaults_eq_true.mpr ⟨rfl, hpolicy⟩), recordFault_of_no_record hrecord]

/-- A word write at 255 under `FAULT` writes no byte and sets the record (R33). -/
theorem writeWord_top_of_fault (hrecord : s.faultRecord = none) (hpolicy : s.params.wordTopPolicy = .fault) (w : Word) :
    s.writeWord 0xFF#8 w = { s with faultRecord := some topRecord } := by
  rw [State.writeWord, if_pos (State.wordFaults_eq_true.mpr ⟨rfl, hpolicy⟩), recordFault_of_no_record hrecord]

/-- A word read that goes through returns the two bytes big-endian and changes nothing (R31). -/
theorem exists_readWord (h : s.wordFaults a = false) :
    ∃ u : Word, s.readWord a = (some u, s) ∧ u.toNat = (s.readByte a).toNat * 256 + (s.readByte (a + 1)).toNat :=
  ⟨_, readWord_of_not_faults h, wordOf_toNat _ _⟩

theorem frame_writeWord (h : s.wordFaults a = false) (w : Word) : Frame [.mem] s (s.writeWord a w) := by
  rw [writeWord_of_not_faults h]
  exact (s.frame_writeByte _ _).trans (frame_writeByte _ _ _)

/-- A word write that goes through puts the high byte at its address and the low byte at the next one (R32). -/
theorem readByte_writeWord (h : s.wordFaults a = false) (w : Word) (b : Byte) :
    (s.writeWord a w).readByte b = if b = a then wordHigh w else if b = a + 1 then wordLow w else s.readByte b := by
  rw [writeWord_of_not_faults h, State.readByte_writeByte, State.readByte_writeByte]
  by_cases hb : b = a
  · simp [hb]
  · simp [hb]

theorem toNat_readByte_writeWord (h : s.wordFaults a = false) (w : Word) (b : Byte) :
    ((s.writeWord a w).readByte b).toNat =
      if b = a then w.toNat / 256 else if b = a + 1 then w.toNat % 256 else (s.readByte b).toNat := by
  rw [readByte_writeWord h, apply_ite BitVec.toNat, apply_ite BitVec.toNat, wordHigh_toNat, wordLow_toNat]

/-- A word read gives back the word just written at its address. -/
theorem readWord_writeWord (h : s.wordFaults a = false) (w : Word) :
    (s.writeWord a w).readWord a = (some w, s.writeWord a w) := by
  have hsame : (s.writeWord a w).wordFaults a = false := by
    rw [wordFaults_eq_false, (frame_writeWord h w).params]
    exact wordFaults_eq_false.mp h
  rw [readWord_of_not_faults hsame]
  simp [readByte_writeWord h]

end State

/-! ## What the next fetch sees -/

/-- The step of an active state is the instruction at PC; what runs next is decoded from the bytes after that step. -/
theorem step_and_runsNext {s t : State} (hactive : s.active = true) (hexec : exec s.fetchInstr s = .next t) :
    step s = .next t ∧ RunsNext s.params.opcodeMap t (t.readByte t.pc) (t.readByte (t.pc + 1)) := by
  have hframe := exec_frame hexec
  exact ⟨(step_active hactive).trans hexec,
    runsNext_of (hframe.faultRecord.trans (State.active_iff.mp hactive).1) (by rw [hframe.params]) rfl rfl⟩

/-- A step that writes one byte and moves PC past a two-byte instruction: the next fetch sees the byte (R45, R134). -/
theorem step_store_seen {s : State} {v w : Byte} (hactive : s.active = true)
    (hexec : exec s.fetchInstr s = .next ((s.writeByte v w).advance 2)) :
    ∃ t, step s = .next t ∧ t.readByte v = w ∧ t.pc = s.pc + 2 ∧
      RunsNext s.params.opcodeMap t (if s.pc + 2 = v then w else s.readByte (s.pc + 2))
        (if s.pc + 3 = v then w else s.readByte (s.pc + 3)) := by
  obtain ⟨hstep, hnext⟩ := step_and_runsNext hactive hexec
  have h3 : s.pc + 2 + 1 = s.pc + 3 := by bv_omega
  simp only [State.readByte_advance, State.readByte_writeByte, State.advance_pc, State.writeByte_pc, h3] at hnext
  exact ⟨_, hstep, by simp [State.readByte_writeByte], rfl, hnext⟩

/-- A step that pushes one byte and moves PC past a one-byte instruction: the next fetch sees the byte (R45, R134). -/
theorem step_push_seen {s : State} {w : Byte} (hactive : s.active = true)
    (hexec : exec s.fetchInstr s = .next ((s.push w).advance 1)) :
    ∃ t, step s = .next t ∧ t.pc = s.pc + 1 ∧
      RunsNext s.params.opcodeMap t (if s.pc + 1 = s.sp then w else s.readByte (s.pc + 1))
        (if s.pc + 2 = s.sp then w else s.readByte (s.pc + 2)) := by
  obtain ⟨hstep, hnext⟩ := step_and_runsNext hactive hexec
  have h2 : s.pc + 1 + 1 = s.pc + 2 := by bv_omega
  simp only [State.readByte_advance, State.readByte_push, State.advance_pc, State.push_pc, h2] at hnext
  exact ⟨_, hstep, rfl, hnext⟩

/-- A step of JSR: the next fetch sees the call frame just pushed, whose saved PC is the JSR's (R93, R134). -/
theorem step_call_seen {s : State} {v : Byte} (hactive : s.active = true) (hinstr : s.fetchInstr = .jsr v) :
    ∃ t, step s = .next t ∧ t.pc = v ∧ RunsNext s.params.opcodeMap t (s.frameByte v) (s.frameByte (v + 1)) := by
  have hexec : exec s.fetchInstr s = .next (((s.advance 2).pushFrame s.returnAddress).drawA.jump v) := by
    rw [hinstr]; rfl
  obtain ⟨hstep, hnext⟩ := step_and_runsNext hactive hexec
  have hframe (b : Byte) : ((s.advance 2).pushFrame s.returnAddress).readByte b = s.frameByte b := by
    rw [← State.readByte_callFrame, State.readByte_pushFrame, State.readByte_pushFrame]; rfl
  simp only [State.readByte_jump, State.readByte_drawA, State.jump_pc, hframe] at hnext
  exact ⟨_, hstep, rfl, hnext⟩

end Sys2Proof.Machine

open Sys2Proof Sys2Proof.Machine

/-- Settles O44: a step runs one instruction or leaves the halted core as it is, and each keeps the invariant. -/
theorem invariantIsKeptByEveryStep : Obligations.InvariantIsKeptByEveryStep := by
  intro s t hs hstep
  obtain ⟨-, hexec⟩ | ⟨-, -, rfl⟩ := step_cases hstep
  · exact hs.of_exec hexec
  · exact hs

/-- Settles O27: at 255 the address after is 0, so `WRAP` is a word access like any other. -/
theorem wordAccessAtTheTopFollowsThePolicy : Obligations.WordAccessAtTheTopFollowsThePolicy := by
  intro s w hrecord
  refine ⟨fun hpolicy => ⟨State.readWord_top_of_fault hrecord hpolicy, State.writeWord_top_of_fault hrecord hpolicy w⟩,
    fun hpolicy => ?_⟩
  have hthrough : s.wordFaults 0xFF#8 = false := State.wordFaults_eq_false.mpr (.inr hpolicy)
  exact ⟨State.exists_readWord hthrough, State.frame_writeWord hthrough w, State.toNat_readByte_writeWord hthrough w⟩

/-- Settles O28: below 255 a word access goes through under either policy. -/
theorem wordsAreBigEndianAndRoundTrip : Obligations.WordsAreBigEndianAndRoundTrip := by
  intro s a w ha
  have hthrough : s.wordFaults a = false := State.wordFaults_eq_false.mpr (.inl ha)
  exact ⟨State.exists_readWord hthrough, State.frame_writeWord hthrough w, State.toNat_readByte_writeWord hthrough w,
    State.readWord_writeWord hthrough w⟩

/-- Settles O38, from the writes each instruction is made of. -/
theorem storesTouchOnlyTheirOwnBytes : Obligations.StoresTouchOnlyTheirOwnBytes :=
  fun _ _ _ h _ => exec_readByte_of_not_stored h

/-- Settles O47: the bytes determine the cells, and the strict order determines the list of them. -/
theorem canonicalMemoryIsDeterminedByItsBytes : Obligations.CanonicalMemoryIsDeterminedByItsBytes :=
  fun _ _ => Memory.eq_of_same_bytes

/-- Settles O50: the three stores are one step that writes a byte, of A, X or Y. -/
theorem storedByteIsSeenByTheNextFetch : Obligations.StoredByteIsSeenByTheNextFetch := by
  intro s v hactive
  refine ⟨fun hinstr => ?_, fun hinstr => ?_, fun hinstr => ?_⟩
  · exact step_store_seen hactive (by rw [hinstr]; rfl)
  · exact step_store_seen hactive (by rw [hinstr]; rfl)
  · exact step_store_seen hactive (by rw [hinstr]; rfl)

/-- Settles O58: PHA and PHP are one step that pushes a byte, of A or P, and JSR pushes its call frame. -/
theorem pushedByteIsSeenByTheNextFetch : Obligations.PushedByteIsSeenByTheNextFetch := by
  intro s hactive
  refine ⟨fun hinstr => ?_, fun hinstr => ?_, fun v => step_call_seen hactive⟩
  · exact step_push_seen hactive (by rw [hinstr]; rfl)
  · exact step_push_seen hactive (by rw [hinstr]; rfl)

/-- Settles O29: the reset memory is the empty list, and an unlisted address reads 0. -/
theorem memoryResetZeroesEveryByte : Obligations.MemoryResetZeroesEveryByte :=
  fun s => ⟨s.readByte_memReset, s.frame_memReset⟩

/-- Settles O34: the byte write leaves no fault record, so the read after it completes too. -/
theorem hostByteWriteIsReadBack : Obligations.HostByteWriteIsReadBack := by
  intro s a v b hrecord
  refine ⟨s.writeByte a v, hostOp_of_no_record hrecord _, s.frame_writeByte a v, ?_⟩
  rw [hostOp_of_no_record (s := s.writeByte a v) hrecord, hostEffect, State.readByte_writeByte]

/-- Settles O57: each operation completes with its effect, and the word accesses are those of R31 to R33. -/
theorem hostOperationsAnswerTheirEffects : Obligations.HostOperationsAnswerTheirEffects := by
  intro s hrecord
  have hop := hostOp_of_no_record hrecord
  refine ⟨fun _ => hop _, hop _, fun _ _ => hop _, fun _ _ => hop _, fun _ _ => hop _, fun a ha => ?_,
    fun hpolicy => ⟨?_, fun w => ?_⟩, hop _⟩
  · obtain ⟨w, hread, hw⟩ := State.exists_readWord (State.wordFaults_eq_false.mpr ha)
    exact ⟨w, by rw [hop, hostEffect, hread], hw⟩
  · rw [hop, hostEffect, State.readWord_top_of_fault hrecord hpolicy]
    rfl
  · rw [hop, hostEffect, State.writeWord_top_of_fault hrecord hpolicy]
    rfl
end

section
/-! Proofs of the statements of 30_encoding.md: what the decoder reads from each kind of opcode byte, that decoding and
encoding are inverse to each other, and that a step runs what the bytes at PC decode to. -/

namespace Sys2Proof

/-! ## Instructions of a mnemonic and of none -/

@[simp] theorem Instr.wellFormed_instr (m : OpcodeMap) (mn : Mnemonic) (imm8 : Byte) :
    (mn.instr imm8).wellFormed m = true := by cases mn <;> rfl

/-- R49, R50: the opcode byte, and after it the operand byte for format OI only. -/
theorem encode_instr (m : OpcodeMap) (mn : Mnemonic) (imm8 : Byte) :
    encode m (mn.instr imm8) = m.code mn :: if mn.hasOperand then [imm8] else [] := by cases mn <;> rfl

theorem encode_noopOf (m : OpcodeMap) (op : Byte) : encode m (noopOf op) = [op] := by
  by_cases hzero : op = 0x00#8
  · rw [noopOf, if_pos hzero, hzero]
    rfl
  · rw [noopOf, if_neg hzero]
    rfl

theorem Instr.wellFormed_noopOf {m : OpcodeMap} {op : Byte} (h : m.lookup op = none) :
    (noopOf op).wellFormed m = true := by
  by_cases hzero : op = 0x00#8
  · rw [noopOf, if_pos hzero]
    rfl
  · rw [noopOf, if_neg hzero]
    exact (OpcodeMap.lookup_eq_none.mp h).resolve_left hzero

theorem noopOf_unassigned {m : OpcodeMap} {op : Byte} (h : m.unassigned op = true) : noopOf op = .nopUnassigned op :=
  if_neg (of_decide_eq_true (Bool.and_eq_true_iff.mp h).1)

/-- A byte that is 0x00 or no mnemonic's selects no mnemonic, under any map. -/
theorem OpcodeMap.lookup_eq_none_of_no_code {m : OpcodeMap} {op : Byte} (h : op = 0x00#8 ∨ ∀ mn, m.code mn ≠ op) :
    m.lookup op = none := by
  cases hl : m.lookup op with
  | none => rfl
  | some mn =>
    obtain ⟨hcode, hne⟩ := OpcodeMap.code_of_lookup hl
    exact absurd hcode (h.resolve_left hne mn)

/-! ## What the decoder reads from each kind of opcode byte (R53, R57) -/

section
variable {m : OpcodeMap} {op : Byte} {mn : Mnemonic}

theorem opcodeLength_eq_two (hl : m.lookup op = some mn) (ho : mn.hasOperand = true) : opcodeLength m op = 2 := by
  simp [opcodeLength, hl, ho]

theorem decode_of_operand (hl : m.lookup op = some mn) (ho : mn.hasOperand = true) (imm8 : Byte) (rest : List Byte) :
    decode m (op :: imm8 :: rest) = .ok (mn.instr imm8, rest) := by
  rw [decode_length_two (opcodeLength_eq_two hl ho), decodePair, hl]

/-- A format O mnemonic's instruction is the same whatever byte it is given. -/
theorem decode_of_no_operand (hl : m.lookup op = some mn) (ho : mn.hasOperand = false) (imm8 : Byte)
    (rest : List Byte) : decode m (op :: rest) = .ok (mn.instr imm8, rest) := by
  have hlen : opcodeLength m op = 1 := by simp [opcodeLength, hl, ho]
  rw [decode_length_one hlen, decodePair_of_length_one hlen _ imm8, decodePair, hl]

theorem decode_of_no_mnemonic (hl : m.lookup op = none) (rest : List Byte) :
    decode m (op :: rest) = .ok (noopOf op, rest) := by
  have hlen : opcodeLength m op = 1 := by simp [opcodeLength, hl]
  rw [decode_length_one hlen, decodePair, hl]

end

/-! ## The two directions of the round trip -/

/-- A legal map gives each mnemonic's byte back, so the opcode byte alone tells which of the three kinds it is. -/
theorem decode_encode {m : OpcodeMap} (hm : m.Legal) {i : Instr} (hi : i.wellFormed m = true) (rest : List Byte) :
    decode m (encode m i ++ rest) = .ok (i, rest) := by
  have hcode := OpcodeMap.lookup_code hm
  cases i with
  | lda v | ldx v | ldy v | sta v | stx v | sty v | cmp v | cmx v | cmy v | beq v | bne v | jmp v | jsr v | ada v
  | adx v | ady v => exact decode_of_operand (hcode _) rfl v rest
  | nopZero => exact decode_of_no_mnemonic m.lookup_zero rest
  | nopUnassigned op =>
    rw [← noopOf_unassigned hi, encode_noopOf]
    exact decode_of_no_mnemonic (OpcodeMap.lookup_unassigned hi) rest
  | _ => exact decode_of_no_operand (hcode _) rfl 0x00#8 rest

/-- The mnemonic a byte selects has that byte under any map, so this direction needs no legal one. -/
theorem encode_of_decode {m : OpcodeMap} {bytes rest : List Byte} {i : Instr} (h : decode m bytes = .ok (i, rest)) :
    i.wellFormed m = true ∧ bytes = encode m i ++ rest := by
  cases bytes with
  | nil => cases h
  | cons op tail =>
    cases hl : m.lookup op with
    | none =>
      obtain ⟨rfl, rfl⟩ : noopOf op = i ∧ tail = rest := by simpa [decode_of_no_mnemonic hl] using h
      exact ⟨Instr.wellFormed_noopOf hl, by rw [encode_noopOf, List.singleton_append]⟩
    | some mn =>
      obtain ⟨hcode, -⟩ := OpcodeMap.code_of_lookup hl
      cases ho : mn.hasOperand with
      | false =>
        obtain ⟨rfl, rfl⟩ : mn.instr 0x00#8 = i ∧ tail = rest := by
          simpa [decode_of_no_operand hl ho 0x00#8] using h
        exact ⟨Instr.wellFormed_instr .., by simp [encode_instr, hcode, ho]⟩
      | true =>
        cases tail with
        | nil => rw [decode_missing (opcodeLength_eq_two hl ho)] at h; cases h
        | cons imm8 tail =>
          obtain ⟨rfl, rfl⟩ : mn.instr imm8 = i ∧ tail = rest := by simpa [decode_of_operand hl ho] using h
          exact ⟨Instr.wellFormed_instr .., by simp [encode_instr, hcode, ho]⟩

end Sys2Proof

open Sys2Proof Sys2Proof.Machine

/-- Settles O18, from what the decoder reads from each kind of opcode byte. -/
theorem decodeOfEncodeIsTheInstruction : Obligations.DecodeOfEncodeIsTheInstruction :=
  fun _ hm _ rest hi => decode_encode hm hi rest

/-- Settles O19, by the kind of the opcode byte; a list that ends too early decodes to nothing. -/
theorem encodeOfDecodeIsTheBytes : Obligations.EncodeOfDecodeIsTheBytes :=
  fun _ _ _ _ => encode_of_decode

/-- Settles O20: a legal map's lookup gives each mnemonic's byte that mnemonic, and every other byte none. -/
theorem decodeIsTotalOnBytes : Obligations.DecodeIsTotalOnBytes := by
  intro m hm op next rest
  refine ⟨fun mn hop => ?_, fun hnone => decode_of_no_mnemonic (OpcodeMap.lookup_eq_none_of_no_code hnone) _⟩
  have hl : m.lookup op = some mn := hop ▸ OpcodeMap.lookup_code hm mn
  cases ho : mn.hasOperand with
  | true => exact decode_of_operand hl ho next rest
  | false => exact decode_of_no_operand hl ho next (next :: rest)

/-- Settles O21: the bytes are the encodings under the reference assignment, so they decode by the round trip. -/
theorem sampleWordsDecodeAsTheSpecEncodesThem : Obligations.SampleWordsDecodeAsTheSpecEncodesThem := by
  have read (i : Instr) (hi : i.wellFormed OpcodeMap.reference = true) (rest : List Byte) :=
    decode_encode OpcodeMap.legal_reference hi rest
  exact ⟨OpcodeMap.legal_reference, fun v rest =>
    ⟨read (.lda v) rfl rest, read (.sta v) rfl rest, read .txa rfl rest, read .pha rfl rest, read .dec rfl rest,
      read (.cmp v) rfl rest, read (.beq v) rfl rest, read (.jsr v) rfl rest, read .rts rfl rest, read .oua rfl rest,
      read .hlt rfl rest, read .apa rfl rest, read (.ada v) rfl rest, read .nopZero rfl rest,
      read (.nopUnassigned 0x27#8) rfl rest⟩⟩

/-- Settles O22: the fetch reads the two bytes that the decoder is given. -/
theorem stepRunsTheDecodedInstruction : Obligations.StepRunsTheDecodedInstruction := by
  intro s i rest hrecord hpc hdecode _
  have hi := decode_fst (next := s.readByte (s.pc + 1)) hdecode (by simp)
  rw [step_active (State.active_iff.mpr ⟨hrecord, hpc⟩), State.fetchInstr_eq, hi]
end

section
/-! Proofs of the statements of 40_load_store.md: what a rule asks of an instruction that writes one register, or one
byte of memory, and then moves PC past its own bytes. -/

namespace Sys2Proof.Machine

/-! ## Encodings under the reference assignment -/

/-- The reference assignment is legal, so an instruction's bytes decode back to it (R53, R55). -/
theorem encodedAs_of_encode {bytes : List Byte} {i : Instr} (hi : i.wellFormed OpcodeMap.reference = true)
    (hbytes : encode OpcodeMap.reference i = bytes) : EncodedAs bytes i :=
  ⟨hbytes, fun rest => hbytes ▸ decode_encode OpcodeMap.legal_reference hi rest⟩

/-! ## A register write and the PC after it -/

@[simp] theorem State.setReg_pc (s : State) (r : Reg) (v : Byte) : (s.setReg r v).pc = s.pc := by cases r <;> rfl

@[simp] theorem State.reg_setReg_same (s : State) (r : Reg) (v : Byte) : (s.setReg r v).reg r = v := by cases r <;> rfl

@[simp] theorem State.reg_advance (s : State) (n : Byte) (r : Reg) : (s.advance n).reg r = s.reg r := by cases r <;> rfl

/-! ## The rules of the two shapes -/

section
variable {bytes : List Byte} {i : Instr} {w : State → Byte} {n : Byte}

/-- An instruction that writes a value to one register and moves PC past its bytes changes nothing else. -/
theorem executes_setReg (he : EncodedAs bytes i) (r : Reg)
    (hexec : ∀ s, exec i s = .next ((s.setReg r (w s)).advance n)) :
    Executes bytes i fun s t => t.reg r = w s ∧ t.pc = s.pc + n ∧ Frame [r.field, .pc] s t := by
  refine executes_of he fun s => ⟨_, hexec s, by simp, by simp, ?_⟩
  exact ((s.frame_setReg r _).comp (State.frame_advance _ _)).mono (by simp)

/-- An instruction that writes a value to one byte of memory and moves PC past its own bytes changes nothing else. -/
theorem executes_writeByte (he : EncodedAs bytes i) {addr : Byte}
    (hexec : ∀ s, exec i s = .next ((s.writeByte addr (w s)).advance n)) :
    Executes bytes i fun s t =>
      (∀ b, t.readByte b = if b = addr then w s else s.readByte b) ∧ t.pc = s.pc + n ∧ Frame [.mem, .pc] s t := by
  refine executes_of he fun s => ⟨_, hexec s, fun b => ?_, rfl, ?_⟩
  · rw [State.readByte_advance, State.readByte_writeByte]
  · exact ((s.frame_writeByte _ _).comp (State.frame_advance _ _)).mono (by simp)

end

end Sys2Proof.Machine

open Sys2Proof Sys2Proof.Machine

/-- Settles O2: each store is one byte write at the operand address, of A, X or Y. The step reads its bytes before the
write, so it does not matter whether the write falls on one of them. -/
theorem storesWriteTheRegisterAtTheOperandAddress : Obligations.StoresWriteTheRegisterAtTheOperandAddress :=
  fun _ => ⟨executes_writeByte (encodedAs_of_encode rfl rfl) fun _ => rfl,
    executes_writeByte (encodedAs_of_encode rfl rfl) fun _ => rfl,
    executes_writeByte (encodedAs_of_encode rfl rfl) fun _ => rfl⟩

/-- Settles O1: each load is one register write, of the operand byte. -/
theorem loadsPutTheOperandInTheRegister : Obligations.LoadsPutTheOperandInTheRegister :=
  fun _ => ⟨executes_setReg (encodedAs_of_encode rfl rfl) .a fun _ => rfl,
    executes_setReg (encodedAs_of_encode rfl rfl) .x fun _ => rfl,
    executes_setReg (encodedAs_of_encode rfl rfl) .y fun _ => rfl⟩
end

section
/-! Proofs of the statements of 41_transfer.md: a register transfer is one register write, of another register's value. -/

open Sys2Proof Sys2Proof.Machine

/-- Settles O3: each transfer is one register write, of the source register's value before (R67 to R72). -/
theorem transfersCopyOneRegister : Obligations.TransfersCopyOneRegister :=
  ⟨executes_setReg (encodedAs_of_encode rfl rfl) .a fun _ => rfl,
    executes_setReg (encodedAs_of_encode rfl rfl) .a fun _ => rfl,
    executes_setReg (encodedAs_of_encode rfl rfl) .x fun _ => rfl,
    executes_setReg (encodedAs_of_encode rfl rfl) .y fun _ => rfl,
    executes_setReg (encodedAs_of_encode rfl rfl) .x fun _ => rfl,
    executes_setReg (encodedAs_of_encode rfl rfl) .sp fun _ => rfl⟩
end

section
/-! Proofs of the statements of 42_stack.md: what a rule asks of an instruction that pushes one byte, or pops one into a
register, and then moves PC past its own byte. -/

namespace Sys2Proof.Machine

/-- SP's step down as the rules state it: an integer remainder, so that 0 gives 255 (R9, R74). -/
theorem toNat_sub_one (v : Byte) : ((v - 1).toNat : Int) = ((v.toNat : Int) - 1) % 256 := by
  have h : (v - 1).toNat = (255 + v.toNat) % 256 := BitVec.toNat_sub v 1
  omega

theorem State.setReg_sp_of_ne {r : Reg} (hr : r ≠ .sp) (s : State) (v : Byte) : (s.setReg r v).sp = s.sp := by
  cases r with
  | sp => exact absurd rfl hr
  | _ => rfl

section
variable {bytes : List Byte} {i : Instr}

/-- An instruction that pushes one byte and moves PC past its own byte changes nothing else (R73). -/
theorem executes_push (he : EncodedAs bytes i) {w : State → Byte}
    (hexec : ∀ s, exec i s = .next ((s.push (w s)).advance 1)) :
    Executes bytes i fun s t =>
      (∀ b, t.readByte b = if b = s.sp then w s else s.readByte b) ∧
        t.sp.toNat = (s.sp.toNat + 1) % 256 ∧ t.pc = s.pc + 1 ∧ Frame [.mem, .sp, .pc] s t := by
  refine executes_of he fun s => ⟨_, hexec s, fun b => ?_, BitVec.toNat_add s.sp 1, rfl, ?_⟩
  · rw [State.readByte_advance, State.readByte_push]
  · exact ((s.frame_push _).comp (State.frame_advance _ _)).mono (by simp)

section
variable {r : Reg}

/-- An instruction that pops one byte into a register other than SP reads it at the new SP, and changes only that
register, SP and PC (R74). -/
theorem completes_pop (hr : r ≠ .sp) {s : State}
    (hexec : exec i s = .next ((s.pop.2.setReg r s.pop.1).advance 1)) :
    Completes i s fun t =>
      t.sp = s.sp - 1 ∧ t.reg r = s.readByte t.sp ∧ t.pc = s.pc + 1 ∧ Frame [r.field, .sp, .pc] s t := by
  have hsp : ((s.pop.2.setReg r s.pop.1).advance 1).sp = s.sp - 1 := State.setReg_sp_of_ne hr _ _
  refine ⟨_, hexec, hsp, ?_, by simp, ?_⟩
  · rw [hsp, State.reg_advance, State.reg_setReg_same, State.pop_value]
  · exact ((s.frame_pop.comp (State.frame_setReg _ r _)).comp (State.frame_advance _ _)).mono (by simp)

theorem executes_pop (he : EncodedAs bytes i) (hr : r ≠ .sp)
    (hexec : ∀ s, exec i s = .next ((s.pop.2.setReg r s.pop.1).advance 1)) :
    Executes bytes i fun s t =>
      ((t.sp.toNat : Int) = ((s.sp.toNat : Int) - 1) % 256) ∧ t.reg r = s.readByte t.sp ∧
        t.pc = s.pc + 1 ∧ Frame [r.field, .sp, .pc] s t :=
  executes_of he fun s => (completes_pop hr (hexec s)).mono fun _ ⟨hsp, hrest⟩ => ⟨hsp ▸ toNat_sub_one s.sp, hrest⟩

/-- Where SP is one past an address, a pop gives the byte at that address and leaves SP there. -/
theorem completes_pop_of_sp_eq (hr : r ≠ .sp) {s : State}
    (hexec : exec i s = .next ((s.pop.2.setReg r s.pop.1).advance 1)) {b : Byte} (hb : s.sp = b + 1) :
    Completes i s fun t => t.reg r = s.readByte b ∧ t.sp = b := by
  refine (completes_pop hr hexec).mono fun t ⟨hsp, hreg, _⟩ => ?_
  obtain rfl : t.sp = b := by rw [hsp, hb, BitVec.add_sub_cancel]
  exact ⟨hreg, rfl⟩

end

end

/-- The byte just pushed is the one at the old SP. -/
@[simp] theorem State.readByte_push_same (s : State) (v : Byte) : (s.push v).readByte s.sp = v := by
  rw [State.readByte_push, if_pos rfl]

end Sys2Proof.Machine

open Sys2Proof Sys2Proof.Machine

/-- Settles O4: PHA and PHP are one push, of A or P. -/
theorem pushesWriteAtSpThenIncrementIt : Obligations.PushesWriteAtSpThenIncrementIt :=
  ⟨executes_push (encodedAs_of_encode rfl rfl) fun _ => rfl, executes_push (encodedAs_of_encode rfl rfl) fun _ => rfl⟩

/-- Settles O5: PLA and PLP are one pop, into A or P. -/
theorem popsDecrementSpThenRead : Obligations.PopsDecrementSpThenRead :=
  ⟨executes_pop (r := .a) (encodedAs_of_encode rfl rfl) (by decide) fun _ => rfl,
    executes_pop (r := .p) (encodedAs_of_encode rfl rfl) (by decide) fun _ => rfl⟩

/-- Settles O49: in each clause the pop begins with SP one past the address in question, and after a push the byte there
is the one pushed. -/
theorem popUndoesPush : Obligations.PopUndoesPush := by
  have pla {t : State} {b : Byte} (hsp : t.sp = b + 1) : Completes .pla t fun r => r.a = t.readByte b ∧ r.sp = b :=
    completes_pop_of_sp_eq (r := .a) (by decide) rfl hsp
  have plp {t : State} {b : Byte} (hsp : t.sp = b + 1) : Completes .plp t fun r => r.p = t.readByte b ∧ r.sp = b :=
    completes_pop_of_sp_eq (r := .p) (by decide) rfl hsp
  refine ⟨fun s v => ⟨_, rfl, _, rfl, ?_⟩, fun s => ⟨_, rfl, ?_⟩, fun s b hx => ⟨_, rfl, pla hx⟩⟩
  · exact (pla rfl).mono fun r ⟨ha, hsp⟩ => ⟨ha.trans (s.readByte_push_same s.a), hsp⟩
  · exact (plp rfl).mono fun r ⟨hp, hsp⟩ => ⟨hp.trans (s.readByte_push_same s.p), hsp⟩
end

section
/-! Proofs of the statements of 43_incdec.md: what the ALU's two steps are on integers, and what a rule asks of an
instruction that writes one register, said of that register as an integer. -/

namespace Sys2Proof.Machine

/-! ## The ALU's increment and decrement (R104) -/

theorem toNat_aluInc (v : Byte) : ((aluInc v).toNat : Int) = ((v.toNat : Int) + 1) % 256 :=
  congrArg Nat.cast (BitVec.toNat_add v 1)

theorem toNat_aluDec (v : Byte) : ((aluDec v).toNat : Int) = ((v.toNat : Int) - 1) % 256 :=
  toNat_sub_one v

/-! ## Rules -/

/-- An instruction's rule with a weaker property of the state it answers, at `exec` and at the step alike. -/
theorem Executes.mono {bytes : List Byte} {i : Instr} {post post' : State → State → Prop} (h : Executes bytes i post)
    (hpost : ∀ s t, post s t → post' s t) : Executes bytes i post' := by
  obtain ⟨hencoded, hcompletes, -⟩ := h
  exact executes_of hencoded fun s => (hcompletes s).mono (hpost s)

/-- The rule of an instruction that writes one register, where the value written is known as an integer. -/
theorem executes_setReg_toNat {bytes : List Byte} {i : Instr} {w : State → Byte} {n : Byte} {g : State → Int}
    (he : EncodedAs bytes i) (r : Reg) (hexec : ∀ s, exec i s = .next ((s.setReg r (w s)).advance n))
    (hw : ∀ s, ((w s).toNat : Int) = g s) :
    Executes bytes i fun s t => ((t.reg r).toNat : Int) = g s ∧ t.pc = s.pc + n ∧ Frame [r.field, .pc] s t :=
  (executes_setReg he r hexec).mono fun s _ ⟨hreg, hrest⟩ => ⟨hreg ▸ hw s, hrest⟩

end Sys2Proof.Machine

open Sys2Proof Sys2Proof.Machine

/-- Settles O6: each instruction is one register write, of the ALU's step from that register's own value (R79 to R84). -/
theorem incrementsAndDecrementsWrapWithoutFlags : Obligations.IncrementsAndDecrementsWrapWithoutFlags :=
  ⟨executes_setReg_toNat (encodedAs_of_encode rfl rfl) .a (fun _ => rfl) fun s => toNat_aluDec s.a,
    executes_setReg_toNat (encodedAs_of_encode rfl rfl) .x (fun _ => rfl) fun s => toNat_aluDec s.x,
    executes_setReg_toNat (encodedAs_of_encode rfl rfl) .y (fun _ => rfl) fun s => toNat_aluDec s.y,
    executes_setReg_toNat (encodedAs_of_encode rfl rfl) .a (fun _ => rfl) fun s => toNat_aluInc s.a,
    executes_setReg_toNat (encodedAs_of_encode rfl rfl) .x (fun _ => rfl) fun s => toNat_aluInc s.x,
    executes_setReg_toNat (encodedAs_of_encode rfl rfl) .y (fun _ => rfl) fun s => toNat_aluInc s.y⟩
end

section
/-! Proofs of the statements of 44_compare.md: what a rule asks of a compare, and which instructions keep EQ set. -/

namespace Sys2Proof.Machine

/-- A compare of a register with a value sets EQ on equality, moves PC past its two bytes and changes nothing else. -/
theorem executes_compare {bytes : List Byte} {i : Instr} {v : Byte} (he : EncodedAs bytes i) (r : Reg)
    (hexec : ∀ s, exec i s = .next ((s.compare r v).advance 2)) :
    Executes bytes i fun s t =>
      t.p.getLsbD 1 = (s.p.getLsbD 1 || decide (s.reg r = v)) ∧
      (∀ k, k ≠ 1 → t.p.getLsbD k = s.p.getLsbD k) ∧ t.pc = s.pc + 2 ∧ Frame [.p, .pc] s t := by
  refine executes_of he fun s => ⟨_, hexec s, ?_, fun k hk => ?_, rfl, ?_⟩
  · exact (getLsbD_compareFlags s.p _ v 1).trans (by simp)
  · exact (getLsbD_compareFlags s.p _ v k).trans (by simp [hk])
  · exact ((s.frame_compare r v).comp (State.frame_advance _ _)).mono (by simp)

/-- Only the branches, PLP and RTS can take EQ from 1 to 0 (R18, R88): a compare can set it but not clear it, and no
other instruction writes P. -/
theorem exec_keeps_eq_set {i : Instr} {s t : State} (h : exec i s = .next t) (hi : i.mayClearEq = false)
    (hs : s.p.getLsbD 1 = true) : t.p.getLsbD 1 = true := by
  cases i with
  | beq | bne | plp | rts => cases hi
  | cmp | cmx | cmy =>
    obtain rfl := Host.Outcome.next.inj h
    exact (getLsbD_compareFlags s.p _ _ 1).trans (by simp [hs])
  | _ => rw [(exec_frame h).p (by simp [Instr.writes]), hs]

end Sys2Proof.Machine

open Sys2Proof Sys2Proof.Machine

/-- Settles O7: each instruction is one compare, of A, X or Y with the operand byte (R85 to R87). -/
theorem comparesSetEqOnEqualityAndNeverClearIt : Obligations.ComparesSetEqOnEqualityAndNeverClearIt :=
  fun _ => ⟨executes_compare (encodedAs_of_encode rfl rfl) .a fun _ => rfl,
    executes_compare (encodedAs_of_encode rfl rfl) .x fun _ => rfl,
    executes_compare (encodedAs_of_encode rfl rfl) .y fun _ => rfl⟩

/-- Settles O40, with "EQ is set" as the run's invariant. -/
theorem eqIsClearedOnlyByBranchesPlpAndRts : Obligations.EqIsClearedOnlyByBranchesPlpAndRts := by
  intro n s t hrun
  refine Run.invariant (P := fun u => u.p.getLsbD 1 = true) (fun u v hu hallowed hexec => ?_) hrun
  exact exec_keeps_eq_set hexec (by simpa using hallowed) hu
end

section
/-! Proofs of the statements of 45_control_flow.md: what a rule asks of a branch, what JSR pushes and RTS pops, that a
return undoes its call, and a launch that never ends. -/

namespace Sys2Proof.Machine

/-! ## Branches and the flag -/

/-- A branch that is taken where EQ has a given value decides on the old EQ, clears it, and changes nothing else but
PC. -/
theorem executes_branch {bytes : List Byte} {i : Instr} {v : Byte} {eq : Bool} {taken : State → Bool}
    (he : EncodedAs bytes i) (htaken : ∀ s, taken s = decide (s.p.getLsbD 1 = eq))
    (hexec : ∀ s, exec i s = .next ((s.advance 2).branch (taken s) v)) :
    Executes bytes i fun s t =>
      t.pc = (if s.p.getLsbD 1 = eq then v else s.pc + 2) ∧ t.p.getLsbD 1 = false ∧
      (∀ k, k ≠ 1 → t.p.getLsbD k = s.p.getLsbD k) ∧ Frame [.p, .pc] s t := by
  refine executes_of he fun s => ⟨_, hexec s, ?_, ?_, fun k hk => ?_, ?_⟩
  · simp [htaken]
  · exact (getLsbD_clearEq s.p 1).trans (by simp)
  · exact (getLsbD_clearEq s.p k).trans (by simp [hk])
  · exact ((s.frame_advance _).comp (State.frame_branch _ _ _)).mono (by simp)

/-- Where EQ is clear, clearing it changes nothing. -/
theorem clearEq_of_getLsbD_eq_false {p : Byte} (h : p.getLsbD 1 = false) : clearEq p = p := by
  refine BitVec.eq_of_getLsbD_eq fun k _ => ?_
  rw [getLsbD_clearEq]
  by_cases hk : k = 1
  · rw [hk, h, Bool.false_and]
  · simp [hk]

/-- BNE to its own address with EQ clear changes nothing: the branch is taken to where PC is. -/
theorem exec_bne_self {s : State} (h : s.p.getLsbD 1 = false) : exec (.bne s.pc) s = .next s := by
  have htaken : (!eqFlag s.p) = true := by rw [eqFlag, h, Bool.not_false]
  change Host.Outcome.next ((s.advance 2).branch (!eqFlag s.p) s.pc) = .next s
  rw [htaken, State.branch, State.advance_p, clearEq_of_getLsbD_eq_false h]
  rfl

/-! ## Call and return -/

/-- JSR leaves its call frame in memory, SP past the frame and PC at the target (R93). -/
theorem completes_jsr (v : Byte) (s : State) :
    Completes (.jsr v) s fun t =>
      (∀ b, t.readByte b = s.frameByte b) ∧ t.sp = s.sp + 5 ∧ t.pc = v ∧ Frame [.a, .sp, .mem, .pc, .draws] s t := by
  refine ⟨_, rfl, s.readByte_callFrame, State.pushFrame_sp (s.advance 2) _, rfl, ?_⟩
  exact (exec_frame (i := .jsr v) rfl).mono (by simp [Instr.writes])

/-- RTS loads Y, X, PC and P from the five bytes below SP, past the slot of A (R94). -/
theorem completes_rts (s : State) :
    Completes .rts s fun t =>
      t.y = s.readByte (s.sp - 1) ∧ t.x = s.readByte (s.sp - 2) ∧ t.pc = s.readByte (s.sp - 3) ∧
        t.p = s.readByte (s.sp - 5) ∧ t.sp = s.sp - 5 ∧ Frame [.a, .x, .y, .p, .sp, .pc, .draws] s t := by
  refine ⟨_, rfl, State.popFrame_y _, State.popFrame_x _, State.popFrame_pc _, State.popFrame_p _,
    State.popFrame_sp _, ?_⟩
  exact (exec_frame (i := .rts) rfl).mono (by simp [Instr.writes])

/-- Where SP is five past a caller's and the bytes below it are that caller's call frame, RTS gives the caller X, Y, P
and SP back and takes PC from the saved one (R95). -/
theorem completes_rts_of_callFrame {s u : State} (hsp : u.sp = s.sp + 5)
    (hbytes : ∀ b ∈ [s.sp, s.sp + 1, s.sp + 2, s.sp + 3, s.sp + 4], u.readByte b = s.frameByte b) :
    Completes .rts u fun r => r.x = s.x ∧ r.y = s.y ∧ r.p = s.p ∧ r.sp = s.sp ∧
      r.pc = if s.params.jsrSavedPc = .nextInstr then s.pc + 2 else s.pc + 1 := by
  have h1 : u.sp - 1 = s.sp + 4 := by rw [hsp]; bv_omega
  have h2 : u.sp - 2 = s.sp + 3 := by rw [hsp]; bv_omega
  have h3 : u.sp - 3 = s.sp + 2 := by rw [hsp]; bv_omega
  have h5 : u.sp - 5 = s.sp := by rw [hsp]; bv_omega
  simp only [List.forall_mem_cons] at hbytes
  obtain ⟨hp, -, hpc, hx, hy, -⟩ := hbytes
  refine (completes_rts u).mono fun r ⟨ry, rx, rpc, rp, rsp, _⟩ => ?_
  rw [ry, rx, rpc, rp, rsp, h1, h2, h3, h5, hp, hpc, hx, hy]
  simp [State.frameByte]

theorem draws_mem_writes {i : Instr} : Field.draws ∈ i.writes ↔ i = .rts ∨ ∃ v, i = .jsr v := by
  cases i <;> simp [Instr.writes]

/-! ## Launches -/

theorem launch_zero_of_active {s : State} (h : s.active = true) : launch 0 s = .unfinished s := by
  obtain ⟨hrecord, hpc⟩ := State.active_iff.mp h
  simp [launch, hrecord, State.halted, hpc]

theorem launch_succ_of_active {s t : State} (h : s.active = true) (hstep : step s = .next t) (n : Nat) :
    launch (n + 1) s = launch n t := by
  obtain ⟨hrecord, hpc⟩ := State.active_iff.mp h
  simp [launch, hrecord, State.halted, hpc, hstep]

/-- A launch from an active state that steps to itself is unfinished there, whatever the fuel (R127). -/
theorem launch_of_step_self {s : State} (h : s.active = true) (hstep : step s = .next s) (fuel : Nat) :
    launch fuel s = .unfinished s := by
  induction fuel with
  | zero => exact launch_zero_of_active h
  | succ n ih => rw [launch_succ_of_active h hstep, ih]

end Sys2Proof.Machine

open Sys2Proof Sys2Proof.Machine

/-- Settles O8: BEQ is the branch taken where EQ is 1, BNE the one taken where it is 0 (R89, R90). -/
theorem branchesDecideOnEqThenClearIt : Obligations.BranchesDecideOnEqThenClearIt :=
  fun _ => ⟨executes_branch (encodedAs_of_encode rfl rfl) (fun _ => (Bool.decide_eq_true).symm) fun _ => rfl,
    executes_branch (encodedAs_of_encode rfl rfl) (fun _ => (Bool.decide_eq_false).symm) fun _ => rfl⟩

/-- Settles O10, by the byte that stands at each address once the call frame is pushed. -/
theorem callPushesTheFrameAndJumps : Obligations.CallPushesTheFrameAndJumps :=
  fun v => executes_of (encodedAs_of_encode rfl rfl) (completes_jsr v)

/-- Settles O11, from the five pops of RTS. -/
theorem returnPopsTheFrameInReverse : Obligations.ReturnPopsTheFrameInReverse :=
  executes_of (encodedAs_of_encode rfl rfl) completes_rts

/-- Settles O48: what the subroutine kept is the caller's call frame and the SP just past it. -/
theorem callThenReturnRestoresTheCaller : Obligations.CallThenReturnRestoresTheCaller := by
  intro target s c u hcall husp hkept
  obtain ⟨hframe, hcsp, -, -⟩ := (completes_jsr target s).of_next hcall
  exact completes_rts_of_callFrame (husp.trans hcsp) fun b hb => (hkept b hb).trans (hframe b)

/-- Settles O55: the step answers the state it began in. -/
theorem branchToItselfRunsForEver : Obligations.BranchToItselfRunsForEver := by
  intro s hactive heq hinstr
  have hstep : step s = .next s := by rw [step_active hactive, hinstr, exec_bne_self heq]
  exact launch_of_step_self hactive hstep

/-- Settles O9: JMP's frame is PC alone, and PC is the operand. -/
theorem jumpSetsPcAlone : Obligations.JumpSetsPcAlone :=
  fun v => executes_of (encodedAs_of_encode rfl rfl) fun _ => ⟨_, rfl, rfl, exec_frame (i := .jmp v) rfl⟩

/-- Settles O12: JSR and RTS draw A once, and no other instruction's frame holds the counter. -/
theorem callAndReturnDrawAFreshFreeValueOfA : Obligations.CallAndReturnDrawAFreshFreeValueOfA := by
  refine ⟨fun v s => ⟨_, rfl, by simp, by simp⟩, fun s => ⟨_, rfl, by simp, by simp⟩, fun i s t hexec hjsr hrts => ?_⟩
  have hdraws : Field.draws ∉ i.writes := by simp [draws_mem_writes, hjsr, hrts]
  exact (exec_frame hexec).draws hdraws
end

section
/-! Proofs of the statements of 46_output_halt.md: OUA's effect on the output trace, and the halt. -/

open Sys2Proof Sys2Proof.Machine

/-- Settles O13: OUA is one emission of A, and its frame holds only the trace and PC (R96). -/
theorem outputEmitsAOnce : Obligations.OutputEmitsAOnce := by
  refine executes_of (encodedAs_of_encode rfl rfl) fun s => ⟨_, rfl, s.emit_out s.a, rfl, ?_⟩
  exact (exec_frame (i := .oua) rfl).mono (by simp [Instr.writes])

/-- Settles O14: HLT jumps to the sentinel, which is what halted means, and its frame is PC alone (R97). -/
theorem haltSetsPcToTheSentinel : Obligations.HaltSetsPcToTheSentinel :=
  executes_of (encodedAs_of_encode rfl rfl) fun _ => ⟨_, rfl, rfl, rfl, exec_frame (i := .hlt) rfl⟩
end

section
/-! Proofs of the statements of 47_add.md: what a rule asks of an instruction that adds a byte to a register. -/

namespace Sys2Proof.Machine

/-- The ALU's sum of two bytes is their sum as integers, modulo 256 (R104). -/
theorem toNat_aluAdd (u v : Byte) : (aluAdd u v).toNat = (u.toNat + v.toNat) % 256 :=
  BitVec.toNat_add u v

/-- The rule of an instruction that adds a byte, taken from the state before, to one register. -/
theorem executes_add {bytes : List Byte} {i : Instr} {w : State → Byte} {n : Byte} (he : EncodedAs bytes i) (r : Reg)
    (hexec : ∀ s, exec i s = .next ((s.setReg r (aluAdd (s.reg r) (w s))).advance n)) :
    Executes bytes i fun s t =>
      (t.reg r).toNat = ((s.reg r).toNat + (w s).toNat) % 256 ∧ t.pc = s.pc + n ∧ Frame [r.field, .pc] s t :=
  (executes_setReg he r hexec).mono fun s _ ⟨hreg, hrest⟩ => ⟨hreg ▸ toNat_aluAdd (s.reg r) (w s), hrest⟩

end Sys2Proof.Machine

open Sys2Proof Sys2Proof.Machine

/-- Settles O15: each instruction adds a register to A, read before A is written, so APA doubles the old A (R98 to
R100). -/
theorem registerAddsWrapWithoutFlags : Obligations.RegisterAddsWrapWithoutFlags :=
  ⟨executes_add (w := State.a) (encodedAs_of_encode rfl rfl) .a fun _ => rfl,
    executes_add (w := State.x) (encodedAs_of_encode rfl rfl) .a fun _ => rfl,
    executes_add (w := State.y) (encodedAs_of_encode rfl rfl) .a fun _ => rfl⟩

/-- Settles O16: each instruction adds its operand byte, the same on every state, to A, X or Y (R101 to R103). -/
theorem immediateAddsWrapWithoutFlags : Obligations.ImmediateAddsWrapWithoutFlags :=
  fun v => ⟨executes_add (w := fun _ => v) (encodedAs_of_encode rfl rfl) .a fun _ => rfl,
    executes_add (w := fun _ => v) (encodedAs_of_encode rfl rfl) .x fun _ => rfl,
    executes_add (w := fun _ => v) (encodedAs_of_encode rfl rfl) .y fun _ => rfl⟩
end

section
/-! Proofs of the statement of 48_noop.md: which bytes select no mnemonic, and the step of such a byte. -/

namespace Sys2Proof

/-- The mnemonics' bytes under the reference assignment end at 0x26 (R55). -/
theorem OpcodeMap.toNat_code_reference_lt (mn : Mnemonic) : (OpcodeMap.reference.code mn).toNat < 0x27 := by
  cases mn <;> decide

/-- R105: the reference assignment maps no mnemonic to a byte from 0x27 on. -/
theorem OpcodeMap.unassigned_reference {op : Byte} (h : 0x27 ≤ op.toNat) :
    OpcodeMap.reference.unassigned op = true := by
  have hzero : op ≠ 0x00#8 := by rintro rfl; exact absurd h (by decide)
  have hcode (mn : Mnemonic) : OpcodeMap.reference.code mn ≠ op := by
    rintro rfl
    exact absurd h (OpcodeMap.toNat_code_reference_lt mn).not_ge
  simp [OpcodeMap.unassigned, hzero, hcode]

end Sys2Proof

namespace Sys2Proof.Machine

/-- A no-op consumes its opcode and does nothing else (R105), whatever its byte. -/
theorem exec_noopOf (op : Byte) (s : State) : exec (noopOf op) s = .next (s.advance 1) := by
  by_cases hzero : op = 0x00#8
  · rw [noopOf, if_pos hzero]; rfl
  · rw [noopOf, if_neg hzero]; rfl

/-- The effect R105 asks of a no-op. -/
theorem completes_of_exec_advance_one {i : Instr} {s : State} (h : exec i s = .next (s.advance 1)) :
    Completes i s fun t => t.pc = s.pc + 1 ∧ Frame [.pc] s t :=
  ⟨_, h, rfl, s.frame_advance 1⟩

/-- From an active state whose byte at PC selects no mnemonic the step consumes that byte alone. -/
theorem step_of_no_mnemonic {s : State} (hactive : s.active = true)
    (hl : s.params.opcodeMap.lookup (s.readByte s.pc) = none) : step s = .next (s.advance 1) := by
  rw [step_active hactive, State.fetchInstr_eq, decodePair, hl, exec_noopOf]

end Sys2Proof.Machine

open Sys2Proof Sys2Proof.Machine

/-- Settles O17: a byte that selects no mnemonic is a no-op, and the step of a no-op only advances PC (R105). -/
theorem noopsConsumeOnlyTheOpcode : Obligations.NoopsConsumeOnlyTheOpcode := by
  refine ⟨executes_of (encodedAs_of_encode rfl rfl) fun _ => completes_of_exec_advance_one rfl, fun op hop => ?_,
    fun op s => completes_of_exec_advance_one rfl, fun s hrecord hpc hbyte => ?_⟩
  · exact executes_of (encodedAs_of_encode (OpcodeMap.unassigned_reference hop) rfl) fun _ =>
      completes_of_exec_advance_one rfl
  · exact ⟨_, step_of_no_mnemonic (State.active_iff.mpr ⟨hrecord, hpc⟩) (OpcodeMap.lookup_eq_none_of_no_code hbyte),
      rfl, s.frame_advance 1⟩
end

section
/-! Proofs of the statements of 60_exceptions.md: no instruction faults, a block with a fault record stops for good, and
what the draws can reach. -/

namespace Sys2Proof.Machine

/-- The step of an active state completes, still without a fault record: no instruction sets one (R106). -/
theorem exists_step_of_active {s : State} (h : s.active = true) : ∃ t, step s = .next t ∧ t.faultRecord = none := by
  obtain ⟨t, hexec, hframe⟩ := completes_frame s.fetchInstr s
  exact ⟨t, (step_active h).trans hexec, hframe.faultRecord.trans (State.active_iff.mp h).1⟩

/-! ## The block with a fault record (R107, R119) -/

section
variable {s : State} {r : FaultRecord} (h : s.faultRecord = some r)
include h

theorem hostOp_of_record (op : HostOp) : hostOp op s = .fault (.blockFaulted r) := by simp [hostOp, h]

theorem launch_of_record (fuel : Nat) : launch fuel s = .stopped r := by
  cases fuel <;> simp [launch, h]

end

theorem Session.launch_of_record {c : Session} {r : FaultRecord} (hidle : c.running = false)
    (h : c.block.faultRecord = some r) : c.launch = .fault (.blockFaulted r) := by
  simp [Session.launch, hidle, h]

/-! ## The draws (R93, R94) -/

/-- JSR and RTS draw A from the counter, and nothing else they do depends on it. -/
theorem exec_withDraws_of_draw {i : Instr} {s t : State} (hi : Field.draws ∈ i.writes) (h : exec i s = .next t)
    (n : Nat) : exec i { s with draws := n } = .next { t with a := Config.freeByte n, draws := n + 1 } := by
  obtain rfl | ⟨v, rfl⟩ := draws_mem_writes.mp hi
  · obtain rfl := Host.Outcome.next.inj h; rfl
  · obtain rfl := Host.Outcome.next.inj h; rfl

/-- An instruction that does not draw does the same whatever the counter is. -/
theorem exec_withDraws_of_no_draw {i : Instr} {s t : State} (hi : Field.draws ∉ i.writes) (h : exec i s = .next t)
    (n : Nat) : exec i { s with draws := n } = .next { t with draws := n } := by
  cases i with
  | jsr | rts => exact absurd hi (by simp [Instr.writes])
  | _ => obtain rfl := Host.Outcome.next.inj h; rfl

theorem agreeButA_with (t : State) (a : Byte) (n : Nat) : AgreeButA t { t with a := a, draws := n } := by
  constructor <;> rfl

end Sys2Proof.Machine

open Sys2Proof Sys2Proof.Machine

/-- Settles O24: every instruction completes within its frame, and the fault record is in no frame. -/
theorem noInstructionFaultsOrIsRefused : Obligations.NoInstructionFaultsOrIsRefused := by
  refine ⟨fun i s => ?_, fun s hrecord hpc => exists_step_of_active (State.active_iff.mpr ⟨hrecord, hpc⟩)⟩
  obtain ⟨t, hexec, hframe⟩ := completes_frame i s
  exact ⟨t, hexec, hframe.faultRecord⟩

/-- Settles O56: an instruction reads the counter only to draw A, and only JSR and RTS draw. -/
theorem onlyTheDrawnADependsOnTheDraws : Obligations.OnlyTheDrawnADependsOnTheDraws := by
  intro s t n hactive hstep
  have hstep' : step { s with draws := n } = exec s.fetchInstr { s with draws := n } := step_active hactive
  rw [step_active hactive] at hstep
  rw [hstep']
  by_cases hdraw : Field.draws ∈ s.fetchInstr.writes
  · refine ⟨_, exec_withDraws_of_draw hdraw hstep n, agreeButA_with t _ _, fun hjsr hrts => ?_⟩
    obtain heq | ⟨v, heq⟩ := draws_mem_writes.mp hdraw
    · exact absurd heq hrts
    · exact absurd heq (hjsr v)
  · exact ⟨_, exec_withDraws_of_no_draw hdraw hstep n, agreeButA_with t t.a n, fun _ _ => rfl⟩

/-- Settles O25: the step, the host operations and the launches each look at the fault record first. -/
theorem faultedBlockStopsForGood : Obligations.FaultedBlockStopsForGood :=
  fun _ _ h => ⟨step_faulted h, hostOp_of_record h, launch_of_record h, Session.launch_of_record rfl h⟩
end

section
/-! Proofs of the statements of 70_reset_and_hazards.md: what Load and the boot sequence leave, when the host may act, the
run loop as a run of steps, and the ways PC reaches the halt sentinel. -/

namespace Sys2Proof

/-- R48, R57: format O and format OI are the only two. -/
theorem Instr.length_eq_one_or_two (i : Instr) : i.length = 1 ∨ i.length = 2 := by
  cases i with
  | lda | ldx | ldy | sta | stx | sty | cmp | cmx | cmy | beq | bne | jmp | jsr | ada | adx | ady => exact .inr rfl
  | _ => exact .inl rfl

end Sys2Proof

namespace Sys2Proof.Machine

/-! ## Load and boot (R122, R123) -/

namespace State

/-- Load writes bytes of memory and touches no register (R122). -/
theorem frame_load (s : State) (origin : Byte) (image : List Byte) : Frame [.mem] s (s.load origin image) := by
  rw [State.load_regs]
  constructor <;> simp

/-- The address of the image's next byte, counted from the address after its first. -/
theorem load_address_succ (origin : Byte) (i : Nat) :
    origin + BitVec.ofNat 8 (i + 1) = origin + 1 + BitVec.ofNat 8 i := by
  rw [Nat.add_comm, BitVec.ofNat_add, ← BitVec.add_assoc]; rfl

theorem readByte_load_of_not_covered {b : Byte} {image : List Byte} : ∀ {s : State} {origin : Byte},
    (∀ i, i < image.length → b ≠ origin + BitVec.ofNat 8 i) → (s.load origin image).readByte b = s.readByte b := by
  induction image with
  | nil => intro s origin _; rfl
  | cons v vs ih =>
    intro s origin h
    have hhead : b ≠ origin := by simpa using h 0 (by simp)
    have htail (i : Nat) (hi : i < vs.length) : b ≠ origin + 1 + BitVec.ofNat 8 i :=
      load_address_succ origin i ▸ h (i + 1) (by simpa using hi)
    rw [State.load, ih htail, State.readByte_writeByte, if_neg hhead]

/-- The last image byte to fall on an address is the one that stands there: the next one to do so is 256 bytes on. -/
theorem readByte_load {image : List Byte} : ∀ {s : State} {origin : Byte} {i : Nat} {v : Byte},
    image[i]? = some v → image.length ≤ i + 256 →
      (s.load origin image).readByte (origin + BitVec.ofNat 8 i) = v := by
  induction image with
  | nil => intro s origin i v hv; simp at hv
  | cons w ws ih =>
    intro s origin i v hv hlen
    rw [List.length_cons] at hlen
    cases i with
    | zero =>
      obtain rfl : w = v := by simpa using hv
      have hlater (j : Nat) (hj : j < ws.length) : origin ≠ origin + 1 + BitVec.ofNat 8 j := by bv_omega
      rw [BitVec.add_zero, State.load, readByte_load_of_not_covered hlater,
        State.readByte_writeByte, if_pos rfl]
    | succ i =>
      rw [load_address_succ, State.load]
      exact ih (by simpa using hv) (by omega)

/-- An image no longer than memory stands at its origin once loaded. -/
theorem holds_load {image : List Byte} : ∀ {s : State} {origin : Byte}, image.length ≤ 256 →
    (s.load origin image).holds origin image := by
  induction image with
  | nil => intro s origin _; trivial
  | cons v vs ih =>
    intro s origin hlen
    exact ⟨by simpa using readByte_load (s := s) (origin := origin) (i := 0) (v := v) rfl hlen,
      ih (Nat.le_of_succ_le hlen)⟩

/-- Load writes memory and the core reset does not touch it, so their order does not matter. -/
theorem load_coreReset (image : List Byte) : ∀ (s : State) (origin : Byte) (pc : Byte),
    (s.coreReset pc).load origin image = (s.load origin image).coreReset pc := by
  induction image with
  | nil => intro s origin pc; rfl
  | cons v vs ih => intro s origin pc; exact ih (s.writeByte origin v) (origin + 1) pc

/-- Boot changes no fault record and no parameter, as none of its three operations does. -/
theorem frame_boot (s : State) (origin : Byte) (image : List Byte) :
    Frame [.a, .x, .y, .p, .sp, .pc, .out, .mem] s (s.boot origin image) :=
  (s.frame_memReset.trans (frame_load _ origin image)).comp (frame_coreReset _ origin)

end State

/-! ## A placed instruction (R122) -/

theorem decode_of_decodeTableWord {nbits w : Nat} {i : Instr} (h : decodeTableWord nbits w = some i) :
    ∃ rest, decode OpcodeMap.reference (wordBytes nbits w) = .ok (i, rest) := by
  unfold decodeTableWord at h
  split at h
  · next j rest hdecode => exact ⟨rest, Option.some.inj h ▸ hdecode⟩
  · cases h

/-! ## The three kinds of block: faulted, halted, active (R124) -/

theorem State.not_halted (s : State) : (!s.halted) = decide (s.pc ≠ 0xFF#8) :=
  decide_not.symm

theorem State.faulted_or_halted_or_active (s : State) :
    (∃ r, s.faultRecord = some r) ∨ (s.faultRecord = none ∧ s.pc = 0xFF#8) ∨ s.active = true := by
  cases hrecord : s.faultRecord with
  | some r => exact .inl ⟨r, rfl⟩
  | none =>
    by_cases hpc : s.pc = 0xFF#8
    · exact .inr (.inl ⟨rfl, hpc⟩)
    · exact .inr (.inr (State.active_iff.mpr ⟨hrecord, hpc⟩))

section
variable {s : State} (hrecord : s.faultRecord = none) (hpc : s.pc = 0xFF#8)
include hrecord hpc

theorem step_of_halted : step s = .next s := by simp [step, hrecord, State.halted, hpc, haltSentinel]

theorem launch_of_halted (fuel : Nat) : launch fuel s = .ended s := by
  cases fuel <;> simp [launch, hrecord, State.halted, hpc, haltSentinel]

end

/-! ## The session (R124, R126, R128) -/

namespace Session

variable {c d : Session}

theorem host_of_running (h : c.running = true) (op : HostOp) : c.host op = .refused .hostDuringRun := by
  simp [Session.host, h]

theorem launch_of_running (h : c.running = true) : c.launch = .refused .hostDuringRun := by
  simp [Session.launch, h]

theorem host_of_idle (h : c.running = false) (hrecord : c.block.faultRecord = none) (op : HostOp) :
    c.host op = .next ({ block := (hostEffect op c.block).1, running := false }, (hostEffect op c.block).2) := by
  simp [Session.host, h, hostOp_of_no_record hrecord]

theorem launch_of_idle (h : c.running = false) (hrecord : c.block.faultRecord = none) :
    c.launch = .next { block := c.block, running := decide (c.block.pc ≠ 0xFF#8) } := by
  simp [Session.launch, h, hrecord, State.not_halted]

theorem turn_of_idle (h : c.running = false) : c.turn = .next c := by simp [Session.turn, h]

theorem turn_of_running (h : c.running = true) {t : State} (hstep : step c.block = .next t) :
    c.turn = .next { block := t, running := decide (t.pc ≠ 0xFF#8) } := by
  simp [Session.turn, h, hstep, State.not_halted]

/-- A host operation that completes does so between runs, and starts none. -/
theorem running_eq_false_of_host {op : HostOp} {reply : HostReply} (h : c.host op = .next (d, reply)) :
    d.running = false := by
  cases hc : c.running with
  | true => rw [host_of_running hc] at h; cases h
  | false =>
    cases hrecord : c.block.faultRecord with
    | some r => simp [Session.host, hc, hostOp_of_record hrecord] at h
    | none => rw [host_of_idle hc hrecord] at h; cases h; rfl

/-- A launch that completes starts a run only of a block that can step. -/
theorem active_of_launch (h : c.launch = .next d) (hd : d.running = true) : d.block.active = true := by
  cases hc : c.running with
  | true => rw [launch_of_running hc] at h; cases h
  | false =>
    cases hrecord : c.block.faultRecord with
    | some r => rw [launch_of_record hc hrecord] at h; cases h
    | none =>
      rw [launch_of_idle hc hrecord] at h
      cases h
      exact State.active_iff.mpr ⟨hrecord, of_decide_eq_true hd⟩

/-- A turn of a run in progress is one step, and the run ends with it exactly if PC is the sentinel after it. -/
theorem exists_turn_of_active (hc : c.running = true) (hactive : c.block.active = true) :
    ∃ t, step c.block = .next t ∧ t.faultRecord = none ∧
      c.turn = .next { block := t, running := decide (t.pc ≠ 0xFF#8) } := by
  obtain ⟨t, hstep, hrecord⟩ := exists_step_of_active hactive
  exact ⟨t, hstep, hrecord, turn_of_running hc hstep⟩

theorem active_of_turn (hactive : c.running = true → c.block.active = true) (h : c.turn = .next d)
    (hd : d.running = true) : d.block.active = true := by
  cases hc : c.running with
  | false =>
    rw [turn_of_idle hc] at h
    cases h
    exact hactive hd
  | true =>
    obtain ⟨t, -, hrecord, hturn⟩ := exists_turn_of_active hc (hactive hc)
    rw [hturn] at h
    cases h
    exact State.active_iff.mpr ⟨hrecord, of_decide_eq_true hd⟩

end Session

/-! ## The run loop (R124, R129) -/

/-- A launch that ends has taken a run of steps to a halted state. -/
theorem run_of_launch {t : State} : ∀ {fuel : Nat} {s : State}, launch fuel s = .ended t →
    (∃ n, n ≤ fuel ∧ Run (fun _ => true) n s t) ∧ t.pc = 0xFF#8 ∧ t.faultRecord = none := by
  intro fuel s h
  obtain ⟨r, hr⟩ | ⟨hrecord, hpc⟩ | hactive := s.faulted_or_halted_or_active
  · rw [launch_of_record hr] at h
    cases h
  · rw [launch_of_halted hrecord hpc] at h
    cases h
    exact ⟨⟨0, Nat.zero_le _, rfl⟩, hpc, hrecord⟩
  · cases fuel with
    | zero =>
      rw [launch_zero_of_active hactive] at h
      cases h
    | succ fuel =>
      obtain ⟨u, hstep, -⟩ := exists_step_of_active hactive
      rw [launch_succ_of_active hactive hstep] at h
      obtain ⟨⟨n, hn, hrun⟩, hend⟩ := run_of_launch h
      exact ⟨⟨n + 1, Nat.succ_le_succ hn, hactive, rfl, u, hstep, hrun⟩, hend⟩

/-- A run of steps to a halted state is what a launch with enough fuel takes. -/
theorem launch_of_run {t : State} (hpc : t.pc = 0xFF#8) (hrecord : t.faultRecord = none) :
    ∀ {n fuel : Nat} {s : State}, n ≤ fuel → Run (fun _ => true) n s t → launch fuel s = .ended t
  | 0, fuel, _, _, rfl => launch_of_halted hrecord hpc fuel
  | _ + 1, fuel + 1, _, hn, ⟨hactive, _, _, hstep, hrun⟩ =>
    (launch_succ_of_active hactive hstep fuel).trans (launch_of_run hpc hrecord (Nat.le_of_succ_le_succ hn) hrun)

/-- In all-zero memory each step is a no-op that moves PC one further, so PC reaches 255 with nothing else changed
(R105). -/
theorem run_of_zero_memory {n : Nat} : ∀ {s : State}, s.faultRecord = none → (∀ b, s.readByte b = 0x00#8) →
    s.pc.toNat + n = 255 → Run (fun _ => true) n s { s with pc := 0xFF#8 } := by
  induction n with
  | zero =>
    intro s _ _ hn
    have hpc : s.pc = 0xFF#8 := BitVec.eq_of_toNat_eq hn
    exact congrArg (fun v => { s with pc := v }) hpc.symm
  | succ n ih =>
    intro s hrecord hzero hn
    have hpc : s.pc ≠ 0xFF#8 := by bv_omega
    have hactive : s.active = true := State.active_iff.mpr ⟨hrecord, hpc⟩
    have hstep : step s = .next (s.advance 1) := step_of_no_mnemonic hactive (by rw [hzero, OpcodeMap.lookup_zero])
    have hnext : (s.advance 1).pc.toNat + n = 255 := by rw [State.advance_pc]; bv_omega
    exact ⟨hactive, rfl, _, hstep, ih hrecord hzero hnext⟩

/-! ## The invariant and the host -/

/-- What changes neither the fault record nor the parameters keeps the invariant if it keeps memory canonical. -/
theorem Inv.of_frame {changes : List Field} {s t : State} (hs : Inv s) (h : Frame changes s t) (hm : t.mem.wf) :
    Inv t where
  mem := hm
  map := h.params ▸ hs.map
  record := h.faultRecord ▸ hs.record

/-- A faulting word access sets the one record that R33 gives. -/
theorem Inv.recordFault {s : State} (hs : Inv s) : Inv (s.recordFault topRecord) where
  mem := hs.mem
  map := hs.map
  record r hr := by
    obtain rfl : s.faultRecord.getD topRecord = r := Option.some.inj hr
    cases hrecord : s.faultRecord with
    | none => rfl
    | some old => exact hs.record old hrecord

theorem Inv.readWord {s : State} (hs : Inv s) (addr : Byte) : Inv (s.readWord addr).2 := by
  unfold State.readWord
  split
  · exact hs.recordFault
  · exact hs

theorem Inv.writeByte {s : State} (hs : Inv s) (addr v : Byte) : Inv (s.writeByte addr v) :=
  hs.of_frame (s.frame_writeByte addr v) (State.wf_writeByte hs.mem addr v)

theorem Inv.writeWord {s : State} (hs : Inv s) (addr : Byte) (w : Word) : Inv (s.writeWord addr w) := by
  unfold State.writeWord
  split
  · exact hs.recordFault
  · exact (hs.writeByte _ _).writeByte _ _

theorem hostEffect_readWord_fst (addr : Byte) (s : State) :
    (hostEffect (.readWord addr) s).1 = (s.readWord addr).2 := by
  rw [hostEffect]
  split <;> next h => rw [h]

theorem Inv.hostEffect {s : State} (hs : Inv s) (op : HostOp) : Inv (hostEffect op s).1 := by
  cases op with
  | coreReset origin => exact hs.of_frame (s.frame_coreReset origin) hs.mem
  | memReset => exact hs.of_frame s.frame_memReset Memory.wf_nil
  | load origin image => exact hs.of_frame (s.frame_load origin image) (State.wf_load image s origin hs.mem)
  | readByte | readState => exact hs
  | writeByte addr v => exact hs.writeByte addr v
  | readWord addr => exact hostEffect_readWord_fst addr s ▸ hs.readWord addr
  | writeWord addr w => exact hs.writeWord addr w

/-! ## The ways to the sentinel (R124, R125) -/

/-- A branch ends at the sentinel by being taken to it, or by falling through from 253. -/
theorem branch_pc_eq_sentinel {p v : Byte} {taken : Prop} [Decidable taken]
    (h : (if taken then v else p + 2) = 0xFF#8) : (taken ∧ v = 0xFF#8) ∨ p = 0xFD#8 := by
  split at h
  · next htaken => exact .inl ⟨htaken, h⟩
  · exact .inr (by bv_omega)

/-- PC past an instruction's own bytes is the sentinel from 254 for one byte, and from 253 for two. -/
theorem pc_past_length_eq_sentinel {p : Byte} {i : Instr} (h : p + BitVec.ofNat 8 i.length = 0xFF#8) :
    (i.length = 1 ∧ p = 0xFE#8) ∨ (i.length = 2 ∧ p = 0xFD#8) := by
  obtain hlen | hlen := i.length_eq_one_or_two
  · rw [hlen] at h; exact .inl ⟨hlen, by bv_omega⟩
  · rw [hlen] at h; exact .inr ⟨hlen, by bv_omega⟩

/-- Each way an instruction can leave PC at the sentinel: the two-byte ones that do not overwrite PC, and the branches
not taken, do so from 253. -/
theorem exec_pc_eq_sentinel {i : Instr} {s t : State} (h : exec i s = .next t) (hpc : t.pc = 0xFF#8) :
    i = .hlt ∨ (i = .beq 0xFF#8 ∧ s.p.getLsbD 1 = true) ∨ (i = .bne 0xFF#8 ∧ s.p.getLsbD 1 = false) ∨
      i = .jmp 0xFF#8 ∨ i = .jsr 0xFF#8 ∨ (i = .rts ∧ s.readByte (s.sp - 3) = 0xFF#8) ∨
      (i.length = 1 ∧ s.pc = 0xFE#8) ∨ (i.length = 2 ∧ s.pc = 0xFD#8) := by
  cases hset : i.setsPc with
  | false =>
    have hpast : s.pc + BitVec.ofNat 8 i.length = 0xFF#8 := (completes_pc hset s).of_next h ▸ hpc
    exact .inr (.inr (.inr (.inr (.inr (.inr (pc_past_length_eq_sentinel hpast))))))
  | true =>
    cases i with
    | hlt => exact .inl rfl
    | beq v =>
      obtain ⟨⟨-, hbeq, -⟩, -⟩ := branchesDecideOnEqThenClearIt v
      obtain ⟨htarget, -⟩ := (hbeq s).of_next h
      obtain ⟨heq, rfl⟩ | hfall := branch_pc_eq_sentinel (htarget ▸ hpc)
      · exact .inr (.inl ⟨rfl, heq⟩)
      · exact .inr (.inr (.inr (.inr (.inr (.inr (.inr ⟨rfl, hfall⟩))))))
    | bne v =>
      obtain ⟨-, -, hbne, -⟩ := branchesDecideOnEqThenClearIt v
      obtain ⟨htarget, -⟩ := (hbne s).of_next h
      obtain ⟨heq, rfl⟩ | hfall := branch_pc_eq_sentinel (htarget ▸ hpc)
      · exact .inr (.inr (.inl ⟨rfl, heq⟩))
      · exact .inr (.inr (.inr (.inr (.inr (.inr (.inr ⟨rfl, hfall⟩))))))
    | jmp v =>
      obtain rfl := Host.Outcome.next.inj h
      obtain rfl : v = 0xFF#8 := hpc
      exact .inr (.inr (.inr (.inl rfl)))
    | jsr v =>
      obtain rfl := Host.Outcome.next.inj h
      obtain rfl : v = 0xFF#8 := hpc
      exact .inr (.inr (.inr (.inr (.inl rfl))))
    | rts =>
      obtain ⟨-, -, hpop, -⟩ := (completes_rts s).of_next h
      exact .inr (.inr (.inr (.inr (.inr (.inl ⟨rfl, hpop ▸ hpc⟩)))))
    | _ => cases hset

/-- The block booted with `LDA 0x42` at 253, whose two bytes end just below the sentinel. -/
def bootedAt253 : State := State.reset.boot 0xFD#8 [0x01#8, 0x42#8]

end Sys2Proof.Machine

open Sys2Proof Sys2Proof.Machine

/-- Settles O54: the slide of no-ops is a run of that many steps, so the launch ends where it does. -/
theorem zeroMemorySlidesToTheHalt : Obligations.ZeroMemorySlidesToTheHalt := by
  intro s hrecord hzero
  have hrun := run_of_zero_memory (n := 255 - s.pc.toNat) hrecord hzero (by have := s.pc.isLt; omega)
  exact ⟨hrun, launch_of_run (t := { s with pc := 0xFF#8 }) rfl hrecord le_rfl hrun⟩

/-- Settles O23: the placed bytes are the two that the step fetches, and a decoded instruction is well-formed. -/
theorem stepRunsAPlacedInstruction : Obligations.StepRunsAPlacedInstruction := by
  intro s nbits w i hrecord hpc hmap hi
  obtain ⟨rest, hdecode⟩ := decode_of_decodeTableWord hi
  obtain ⟨hwf, -⟩ := encode_of_decode hdecode
  have hframe : Frame [.mem] s (s.withFetchWord nbits w) := s.frame_load s.pc _
  obtain ⟨h0, h1, -⟩ : (s.withFetchWord nbits w).holds s.pc (wordBytes nbits w) :=
    State.holds_load (show 2 ≤ 256 by decide)
  have hpc' : (s.withFetchWord nbits w).pc = s.pc := hframe.pc (by decide)
  refine ⟨stepRunsTheDecodedInstruction _ i rest (hframe.faultRecord.trans hrecord) (hpc' ▸ hpc) ?_ ?_, hframe⟩
  · rw [hframe.params, hmap, hpc', h0, h1]
    exact hdecode
  · rwa [hframe.params, hmap]

/-- Settles O31: Load is byte writes at consecutive addresses, and the last one at an address stands. -/
theorem loadPlacesTheImageWithWrap : Obligations.LoadPlacesTheImageWithWrap :=
  fun s origin image => ⟨fun _ _ => State.readByte_load, fun _ => State.readByte_load_of_not_covered,
    s.frame_load origin image⟩

/-- Settles O32: the core reset commutes with the load, and the load starts from zeroed memory. -/
theorem bootStepsCommute : Obligations.BootStepsCommute := by
  intro s origin image hrecord
  have hframe := s.frame_boot origin image
  exact ⟨(State.load_coreReset image s.memReset origin origin).symm, rfl, rfl, rfl, rfl, rfl, rfl, rfl,
    hframe.faultRecord.trans hrecord, hframe.params, fun _ _ => State.readByte_load,
    fun b hb => (State.readByte_load_of_not_covered hb).trans (s.readByte_memReset b)⟩

/-- Settles O35: a run is started by a launch alone, of an active block, and a turn keeps it going only where PC is not
the sentinel. -/
theorem sessionsRunOnlyActiveBlocks : Obligations.SessionsRunOnlyActiveBlocks := by
  intro c hactive
  refine ⟨fun op d reply h hd => ?_, fun d => Session.active_of_launch, fun d => Session.active_of_turn hactive,
    fun hc => ?_⟩
  · rw [Session.running_eq_false_of_host h] at hd
    cases hd
  · obtain ⟨t, hstep, -, hturn⟩ := Session.exists_turn_of_active hc (hactive hc)
    exact ⟨t, hstep, hturn⟩

/-- Settles O36, by induction on the fuel one way and on the run the other. -/
theorem launchIsTheRunOfSteps : Obligations.LaunchIsTheRunOfSteps :=
  fun _ _ _ => ⟨run_of_launch, fun ⟨⟨_, hn, hrun⟩, hpc, hrecord⟩ => launch_of_run hpc hrecord hn hrun⟩

/-- Settles O46: a host operation that completes has its effect, and each effect keeps the invariant. -/
theorem invariantIsKeptByHostOperations : Obligations.InvariantIsKeptByHostOperations := by
  intro s t op reply hs h
  cases hrecord : s.faultRecord with
  | some r => rw [hostOp_of_record hrecord] at h; cases h
  | none =>
    rw [hostOp_of_no_record hrecord] at h
    have heffect : hostEffect op s = (t, reply) := Host.Outcome.next.inj h
    simpa [heffect] using hs.hostEffect op

/-- Settles O51: PC after the step is 254 plus the length, modulo 256. -/
theorem operandFetchAtTheTopWrapsWithoutHalting : Obligations.OperandFetchAtTheTopWrapsWithoutHalting := by
  intro s hrecord hpc hset
  have hactive : s.active = true := State.active_iff.mpr ⟨hrecord, by rw [hpc]; decide⟩
  obtain ⟨t, hexec, ht⟩ := completes_pc hset s
  rw [hpc] at ht
  refine ⟨t, (step_active hactive).trans hexec, fun hlen => ?_, fun hlen => ?_⟩
  · have hzero : t.pc = 0x00#8 := by rw [ht, hlen]; rfl
    exact ⟨hzero, by rw [State.halted, hzero]; rfl⟩
  · have hsentinel : t.pc = 0xFF#8 := by rw [ht, hlen]; rfl
    exact ⟨hsentinel, by rw [State.halted, hsentinel]; rfl⟩

/-- Settles O52, from the ways of the instruction that the step runs. -/
theorem sentinelIsReachedOnlyInKnownWays : Obligations.SentinelIsReachedOnlyInKnownWays :=
  fun _ _ hactive hstep => exec_pc_eq_sentinel (step_active hactive ▸ hstep)

/-- Refutes O53: `LDA 0x42` booted at 253 leaves PC at 255, and it is neither at 254 nor any other item of the list. -/
theorem not_sentinelIsReachedOnlyAsR124Lists : ¬ Obligations.SentinelIsReachedOnlyAsR124Lists := by
  intro h
  exact absurd (h bootedAt253 { bootedAt253 with a := 0x42#8, pc := 0xFF#8 } (by decide) rfl rfl) (by decide)

/-- Settles O26: the step and the launches look at PC before anything else runs. -/
theorem haltedCoreStaysAsItIs : Obligations.HaltedCoreStaysAsItIs := by
  intro s hrecord hpc
  refine ⟨launch_of_halted hrecord hpc, step_of_halted hrecord hpc, ?_⟩
  rw [Session.launch_of_idle rfl hrecord]
  simp [hpc]

/-- Settles O33, from what a session answers during a run and between runs. -/
theorem hostActsOnlyBetweenRuns : Obligations.HostActsOnlyBetweenRuns := by
  refine fun c => ⟨fun hc => ⟨Session.host_of_running hc, Session.launch_of_running hc⟩, fun hc hrecord => ?_⟩
  have hlaunch := Session.launch_of_idle hc hrecord
  refine ⟨fun op => ⟨_, _, hostOp_of_no_record hrecord op, Session.host_of_idle hc hrecord op⟩, fun hpc => ?_,
    fun hpc => ?_⟩
  · simpa [hpc] using hlaunch
  · simpa [hpc] using hlaunch
end
